-- ==== Sys2Proof/Word.lean ====
section
/-! DEFINITION. The words that cross the block's interface (00_scope.md R6, R11; 20_memory.md R45). -/

namespace Sys2Proof

/-- A 32-bit command word (30_encoding.md R60). -/
abbrev CmdWord := BitVec 32

/-- MIN, the least int16 (00_scope.md R11), as a mathematical integer. -/
def int16Min : Int := -32768

/-- MAX, the greatest int16 (00_scope.md R11). -/
def int16Max : Int := 32767

end Sys2Proof
end

