-- ==== Sys2Proof/Syntax.lean ====
section
/-! DEFINITION. The commands: one constructor per row of spec/opcode_table.json (30_encoding.md R60, R61, R65). A command
keeps the bits the block ignores (R64), so that no bit of a command word is lost. -/

namespace Sys2Proof

/-- A decoded command word (30_encoding.md R69). `rsv` is bits 27:24, `dec` and `decimals` are bits 23:16,
`value` and `now` are bits 15:0, `rest` is bits 27:0. -/
inductive Instr where
  /-- DEC2IQ, OP 0x1 (40_converter.md R90). -/
  | dec2iq (rsv : BitVec 4) (decimals : BitVec 8) (value : BitVec 16)
  /-- IQ2DEC, OP 0x2 (40_converter.md R100). -/
  | iq2dec (rsv : BitVec 4) (decimals : BitVec 8) (value : BitVec 16)
  /-- ARM, OP 0x3 (41_tracker.md R124); `rsv` and `dec` are ignored. -/
  | arm (rsv : BitVec 4) (dec : BitVec 8) (now : BitVec 16)
  /-- TICK, OP 0x4 (41_tracker.md R125); `rsv` and `dec` are ignored. -/
  | tick (rsv : BitVec 4) (dec : BitVec 8) (now : BitVec 16)
  /-- Reserved, OP 0x0 (30_encoding.md R65). -/
  | reserved0 (rest : BitVec 28)
  /-- Reserved, OP 0x5. -/
  | reserved5 (rest : BitVec 28)
  /-- Reserved, OP 0x6. -/
  | reserved6 (rest : BitVec 28)
  /-- Reserved, OP 0x7. -/
  | reserved7 (rest : BitVec 28)
  /-- Reserved, OP 0x8. -/
  | reserved8 (rest : BitVec 28)
  /-- Reserved, OP 0x9. -/
  | reserved9 (rest : BitVec 28)
  /-- Reserved, OP 0xA. -/
  | reservedA (rest : BitVec 28)
  /-- Reserved, OP 0xB. -/
  | reservedB (rest : BitVec 28)
  /-- Reserved, OP 0xC. -/
  | reservedC (rest : BitVec 28)
  /-- Reserved, OP 0xD. -/
  | reservedD (rest : BitVec 28)
  /-- Reserved, OP 0xE. -/
  | reservedE (rest : BitVec 28)
  /-- Reserved, OP 0xF. -/
  | reservedF (rest : BitVec 28)
deriving DecidableEq, Repr

end Sys2Proof
end

