-- ==== Sys2Proof/Decode.lean ====
section
/-! DEFINITION. The decoder, total on every 32-bit word (30_encoding.md R60 to R65, R69), and the encoder. -/

namespace Sys2Proof

/-- OP, bits 31:28 (30_encoding.md R60). -/
def opField (w : CmdWord) : BitVec 4 := w.extractLsb' 28 4

/-- RSV, bits 27:24 (30_encoding.md R60, R64). -/
def rsvField (w : CmdWord) : BitVec 4 := w.extractLsb' 24 4

/-- DEC, bits 23:16 (30_encoding.md R60, R62). -/
def decField (w : CmdWord) : BitVec 8 := w.extractLsb' 16 8

/-- OPND, bits 15:0 (30_encoding.md R60, R63). -/
def opndField (w : CmdWord) : BitVec 16 := w.extractLsb' 0 16

/-- Bits 27:0, which a reserved command ignores (30_encoding.md R65). -/
def restField (w : CmdWord) : BitVec 28 := w.extractLsb' 0 28

/-- The command a word stands for. OP alone selects it, its four bits from bit 31 down as the encodings of
spec/opcode_table.json write them (30_encoding.md R60, R61, R69). -/
def decode (w : CmdWord) : Instr :=
  match (opField w).getLsbD 3, (opField w).getLsbD 2, (opField w).getLsbD 1, (opField w).getLsbD 0 with
  | false, false, false, false => .reserved0 (restField w)
  | false, false, false, true => .dec2iq (rsvField w) (decField w) (opndField w)
  | false, false, true, false => .iq2dec (rsvField w) (decField w) (opndField w)
  | false, false, true, true => .arm (rsvField w) (decField w) (opndField w)
  | false, true, false, false => .tick (rsvField w) (decField w) (opndField w)
  | false, true, false, true => .reserved5 (restField w)
  | false, true, true, false => .reserved6 (restField w)
  | false, true, true, true => .reserved7 (restField w)
  | true, false, false, false => .reserved8 (restField w)
  | true, false, false, true => .reserved9 (restField w)
  | true, false, true, false => .reservedA (restField w)
  | true, false, true, true => .reservedB (restField w)
  | true, true, false, false => .reservedC (restField w)
  | true, true, false, true => .reservedD (restField w)
  | true, true, true, false => .reservedE (restField w)
  | true, true, true, true => .reservedF (restField w)

/-- A word of the four-operand-field format (30_encoding.md R60). -/
def commandWord (op rsv : BitVec 4) (dec : BitVec 8) (opnd : BitVec 16) : CmdWord :=
  op ++ rsv ++ dec ++ opnd

/-- A reserved word: its OP and the 28 bits below it (30_encoding.md R65). -/
def reservedWord (op : BitVec 4) (rest : BitVec 28) : CmdWord := op ++ rest

/-- The word of a command (30_encoding.md R60, R61). -/
def encode : Instr → CmdWord
  | .dec2iq rsv decimals value => commandWord 0x1 rsv decimals value
  | .iq2dec rsv decimals value => commandWord 0x2 rsv decimals value
  | .arm rsv dec now => commandWord 0x3 rsv dec now
  | .tick rsv dec now => commandWord 0x4 rsv dec now
  | .reserved0 rest => reservedWord 0x0 rest
  | .reserved5 rest => reservedWord 0x5 rest
  | .reserved6 rest => reservedWord 0x6 rest
  | .reserved7 rest => reservedWord 0x7 rest
  | .reserved8 rest => reservedWord 0x8 rest
  | .reserved9 rest => reservedWord 0x9 rest
  | .reservedA rest => reservedWord 0xA rest
  | .reservedB rest => reservedWord 0xB rest
  | .reservedC rest => reservedWord 0xC rest
  | .reservedD rest => reservedWord 0xD rest
  | .reservedE rest => reservedWord 0xE rest
  | .reservedF rest => reservedWord 0xF rest

/-- The OP value of each command, the "match" column of spec/opcode_table.json (30_encoding.md R61). -/
def opOf : Instr → BitVec 4
  | .dec2iq _ _ _ => 0x1
  | .iq2dec _ _ _ => 0x2
  | .arm _ _ _ => 0x3
  | .tick _ _ _ => 0x4
  | .reserved0 _ => 0x0
  | .reserved5 _ => 0x5
  | .reserved6 _ => 0x6
  | .reserved7 _ => 0x7
  | .reserved8 _ => 0x8
  | .reserved9 _ => 0x9
  | .reservedA _ => 0xA
  | .reservedB _ => 0xB
  | .reservedC _ => 0xC
  | .reservedD _ => 0xD
  | .reservedE _ => 0xE
  | .reservedF _ => 0xF

/-- One row of spec/opcode_table.json: the bits it fixes and their values. -/
structure OpcodeRow where
  mnemonic : String
  mask : BitVec 32
  pattern : BitVec 32
deriving DecidableEq, Repr

/-- The rows of spec/opcode_table.json, in its order. -/
def opcodeTable : List OpcodeRow :=
  [ ⟨"DEC2IQ", 0xF0000000, 0x10000000⟩,
    ⟨"IQ2DEC", 0xF0000000, 0x20000000⟩,
    ⟨"ARM", 0xF0000000, 0x30000000⟩,
    ⟨"TICK", 0xF0000000, 0x40000000⟩,
    ⟨"(reserved)", 0xF0000000, 0x00000000⟩,
    ⟨"(reserved)", 0xF0000000, 0x50000000⟩,
    ⟨"(reserved)", 0xF0000000, 0x60000000⟩,
    ⟨"(reserved)", 0xF0000000, 0x70000000⟩,
    ⟨"(reserved)", 0xF0000000, 0x80000000⟩,
    ⟨"(reserved)", 0xF0000000, 0x90000000⟩,
    ⟨"(reserved)", 0xF0000000, 0xA0000000⟩,
    ⟨"(reserved)", 0xF0000000, 0xB0000000⟩,
    ⟨"(reserved)", 0xF0000000, 0xC0000000⟩,
    ⟨"(reserved)", 0xF0000000, 0xD0000000⟩,
    ⟨"(reserved)", 0xF0000000, 0xE0000000⟩,
    ⟨"(reserved)", 0xF0000000, 0xF0000000⟩ ]

/-- The row matches the word: the masked bits have the row's values. -/
def OpcodeRow.selects (r : OpcodeRow) (w : CmdWord) : Bool := w &&& r.mask == r.pattern

/-- The mnemonic of a command, as spec/opcode_table.json spells it (30_encoding.md R61, R68). -/
def mnemonicOf : Instr → String
  | .dec2iq _ _ _ => "DEC2IQ"
  | .iq2dec _ _ _ => "IQ2DEC"
  | .arm _ _ _ => "ARM"
  | .tick _ _ _ => "TICK"
  | .reserved0 _ => "(reserved)"
  | .reserved5 _ => "(reserved)"
  | .reserved6 _ => "(reserved)"
  | .reserved7 _ => "(reserved)"
  | .reserved8 _ => "(reserved)"
  | .reserved9 _ => "(reserved)"
  | .reservedA _ => "(reserved)"
  | .reservedB _ => "(reserved)"
  | .reservedC _ => "(reserved)"
  | .reservedD _ => "(reserved)"
  | .reservedE _ => "(reserved)"
  | .reservedF _ => "(reserved)"

/-- The command whose bits are `w`, numbered as spec/opcode_table.json numbers them. A command is one 32-bit word, so
bits above `nbits` are zero, and a length over 32 bits is no command word (log entry 12). -/
def decodeTableWord (nbits w : Nat) : Option Instr :=
  if nbits ≤ 32 then some (decode (BitVec.ofNat 32 (w % 2 ^ nbits))) else none

end Sys2Proof
end

