-- ==== Sys2Proof/Config.lean ====
section
/-! DEFINITION. What an implementation fixes (00_scope.md R7 to R10, R15; 10_state.md R26) and the free values the spec leaves
to the world outside the block. Nothing here changes while the block runs. -/

namespace Sys2Proof.Config

/-- The two legal values of SAT_ZERO, 0x7FFF and 0x8000 (00_scope.md R9). -/
inductive SatZero where
  | max
  | min
deriving DecidableEq, Repr

/-- The block's four parameters (00_scope.md R15), each of a type that holds its legal values and no other. In particular
SETTLE_DELAY = 65535, which a model must refuse (R7, 70_reset_and_hazards.md R188), is no `Fin 65535`. -/
structure Params where
  /-- SETTLE_DELAY in milliseconds, 0 to 65534 (00_scope.md R7). -/
  settleDelay : Fin 65535
  /-- BUSY_BIT, 0 to 15 (00_scope.md R8). -/
  busyBit : Fin 16
  /-- SAT_ZERO (00_scope.md R9). -/
  satZero : SatZero
  /-- SETTLE_FALLTHROUGH (00_scope.md R10). -/
  settleFallthrough : Bool
deriving DecidableEq, Repr

/-- SETTLE_DELAY of this hardware: OPEN (00_scope.md R7), so a constant with no body, of which a proof can know
only that it is legal. DESIGN CHOICE, safe: log entry 4. -/
opaque settleDelay : Fin 65535

/-- The word the collaborator answers to the n-th StatusRead when its script says nothing about it: a free draw
(20_memory.md R43, 60_exceptions.md R173). It has no body, so no proof knows a value of it. DESIGN CHOICE, safe: log entry 3. -/
opaque statusWord : Nat → BitVec 16

/-- The parameters of this hardware (00_scope.md R15): SETTLE_DELAY open, BUSY_BIT 13, SAT_ZERO 0x7FFF,
SETTLE_FALLTHROUGH false. Log entry 7. -/
def hardware : Params where
  settleDelay := settleDelay
  busyBit := 13
  satZero := .max
  settleFallthrough := false

end Sys2Proof.Config
end

