-- ==== Sys2Proof/Machine/Operands.lean ====
section
/-! DEFINITION. How a command's operands are read (30_encoding.md R62, R63) and the constants the conversions compare them with
(40_converter.md R81, R86). -/

namespace Sys2Proof.Machine

/-- `s16`: the value operand of DEC2IQ and IQ2DEC as an int16 (30_encoding.md R63, 00_scope.md R11). -/
def valueOperand (opnd : BitVec 16) : Int := opnd.toInt

/-- The decimals operand, 0 to 255, neither scaled nor sign-extended (30_encoding.md R62). -/
def decimalsOperand (dec : BitVec 8) : Nat := dec.toNat

/-- The `now` operand of ARM and TICK, a uint16 taken as it is (30_encoding.md R63). -/
def nowOperand (opnd : BitVec 16) : BitVec 16 := opnd

/-- An int16 result as the response word's bit pattern (30_encoding.md R66). -/
def int16Pattern (v : Int) : BitVec 16 := BitVec.ofInt 16 v

/-- The valid input range of DEC2IQ, bounds included, or none where decimals is invalid (40_converter.md R86). -/
def validRange : Nat → Option (Int × Int)
  | 0 => some (-256, 255)
  | 1 => some (-2560, 2559)
  | 2 => some (-25600, 25599)
  | _ => none

/-- HALF_MIN (40_converter.md R81). -/
def halfMin : Int := -16384
/-- HALF_MAX (40_converter.md R81). -/
def halfMax : Int := 16383
/-- FIFTH_MIN (40_converter.md R81). -/
def fifthMin : Int := -6553
/-- FIFTH_MAX (40_converter.md R81). -/
def fifthMax : Int := 6553

/-- The guard of a doubling, both bounds strict (40_converter.md R81, R89). -/
def halfGuard (w : Int) : Bool := halfMin < w && w < halfMax

/-- The guard of a multiplication by 5, both bounds strict (40_converter.md R81, R98). -/
def fifthGuard (w : Int) : Bool := fifthMin < w && w < fifthMax

/-- SAT_ZERO as an int16 (00_scope.md R9). -/
def satZeroValue : Config.SatZero → Int
  | .max => int16Max
  | .min => int16Min

end Sys2Proof.Machine
end

