-- ==== Sys2Proof/Machine/State.lean ====
section
/-! DEFINITION. The state of the block (10_state.md R20 to R36), what the host will do next and how the collaborator will
answer, all of it plain data; and the state after reset. -/

namespace Sys2Proof.Machine

/-- The states of the tracker by name (10_state.md R21); `unrecognized` is any of 0b101, 0b110, 0b111 (R22). -/
inductive Phase where
  | idle
  | start
  | writeIssued
  | waitingSettle
  | pollingBusy
  | unrecognized
deriving DecidableEq, Repr

/-- The encoding of Idle in `st` (10_state.md R21). -/
abbrev stIdle : BitVec 3 := 0b000#3
/-- The encoding of Start (10_state.md R21). -/
abbrev stStart : BitVec 3 := 0b001#3
/-- The encoding of WriteIssued (10_state.md R21). -/
abbrev stWriteIssued : BitVec 3 := 0b010#3
/-- The encoding of WaitingSettle (10_state.md R21). -/
abbrev stWaitingSettle : BitVec 3 := 0b011#3
/-- The encoding of PollingBusy (10_state.md R21). -/
abbrev stPollingBusy : BitVec 3 := 0b100#3

/-- What the host does on the ports `cmd_valid`, `cmd_word` and `rst` (30_encoding.md R70; 60_exceptions.md R173). -/
inductive HostEvent where
  /-- The host offers a command word until the block accepts it. -/
  | command (w : BitVec 32)
  /-- The host asserts `rst`. -/
  | reset
deriving DecidableEq, Repr

/-- How the register-access collaborator will answer StatusRead requests, read from the front: once for each event in which
a request is in flight (20_memory.md R41, R43, R48; 60_exceptions.md R170, R173). It may answer any word, at once, late
or never. DESIGN CHOICE, safe: log entry 3. -/
inductive Collaborator where
  /-- From now on every request is answered at once, each with a free word (`Config.statusWord`). -/
  | free
  /-- From now on no request is ever answered. -/
  | silent
  /-- The request in flight is answered with `w`. -/
  | word (w : BitVec 16) (next : Collaborator)
  /-- The request in flight is not answered yet. -/
  | late (next : Collaborator)
deriving DecidableEq, Repr

/-- The state. `st`, `ts`, `pending` and `rsp` are the block's; `host`, `collab` and `reads` are its environment, held here
because the step reads it. -/
structure State where
  /-- The EWT state register, 3 bits (10_state.md R21). -/
  st : BitVec 3
  /-- The EWT timestamp register, 16 bits (10_state.md R23). -/
  ts : BitVec 16
  /-- The in-flight StatusRead (10_state.md R34, R35), as the `now` of the accepted TICK that waits for it
  (20_memory.md R48). Nothing else can be pending, since no other command waits. -/
  pending : Option (BitVec 16)
  /-- `rsp_valid` and `rsp_word`: the last response event (30_encoding.md R66, R70). It is replaced when the next command
  runs, and gone where that command has no response yet; a reset clears it. -/
  rsp : Option (BitVec 16)
  /-- What the host will do, in order. -/
  host : List HostEvent
  /-- How the collaborator will answer. -/
  collab : Collaborator
  /-- How many StatusRead requests (`stat_req` events) there have been (20_memory.md R42, 70_reset_and_hazards.md R192).
  It numbers the free draws. The MODEL's own count: no command reads it. -/
  reads : Nat
deriving DecidableEq, Repr

/-- The block raises no exception, trap or error code, in any command and for any operand (60_exceptions.md R160, R167),
so nobody raises a fault and there is none: no constructor. Safe. -/
inductive Fault where
deriving DecidableEq, Repr

/-- Why a command has no meaning in the model. -/
inductive Refusal where
  /-- An arm of `exec` that has no meaning yet would raise it; no arm does, because every row of the opcode table has its
  meaning. Safe. -/
  | notModelled (mnemonic : String)
deriving DecidableEq, Repr

/-- The machine right after reset (10_state.md R35, 70_reset_and_hazards.md R180): Start, timestamp zero, nothing in flight. That
the response port is empty is a DESIGN CHOICE (log entry 14). The environment's three fields are DESIGN CHOICES (log entries 2 and 3): the host has nothing to do, the collaborator
answers freely, and no read has been counted. -/
def State.reset : State where
  st := stStart
  ts := 0x0000#16
  pending := none
  rsp := none
  host := []
  collab := .free
  reads := 0

end Sys2Proof.Machine
end

