-- ==== Sys2Proof/Machine/Ops.lean ====
section
/-! DEFINITION. The operations the meanings share: giving a response, the arithmetic and the rounds of the conversions, elapsed time,
StatusRead, and reset. The block takes no exception and returns from none (60_exceptions.md R160, R167); its one asynchronous
event is reset, `takeReset`. -/

namespace Sys2Proof.Machine

/-- The response event of a command (30_encoding.md R66). -/
def respond (r : BitVec 16) (s : State) : State := { s with rsp := some r }

/-- A reserved command: no state read or written, no StatusRead, response 0x0000 (30_encoding.md R65). -/
def noOperation (s : State) : State := respond 0x0000#16 s

/-- Division by 5, truncated toward zero: sign(w) times floor(|w| / 5) (40_converter.md R82). -/
def tdiv5 (w : Int) : Int := w.sign * ((w.natAbs / 5 : Nat) : Int)

/-- Arithmetic right shift by one: floor(w / 2) (40_converter.md R83). Division of integers by a positive literal is floor
division in Lean. -/
def asr1 (w : Int) : Int := w / 2

/-- The preferred steps of one round: apply `f` while the budget remains and the guard holds. Answers the working value
and the budget left (40_converter.md R84). -/
def preferSteps (guard : Int → Bool) (f : Int → Int) : Nat → Int → Int × Nat
  | 0, w => (w, 0)
  | n + 1, w => if guard w then preferSteps guard f n (f w) else (w, n + 1)

/-- The rounds of a conversion (40_converter.md R84): preferred steps, then one fallback step while its budget `q`
remains. A round with no fallback budget ends the loop: either both budgets are spent, or the round is in the no-progress
state (R85). Answers the working value and the preferred budget left, which is 0 unless the loop ended without progress. -/
def rescale (guard : Int → Bool) (prefer fall : Int → Int) : (q p : Nat) → (w : Int) → Int × Nat
  | 0, p, w => preferSteps guard prefer p w
  | q + 1, p, w =>
    rescale guard prefer fall q (preferSteps guard prefer p w).2 (fall (preferSteps guard prefer p w).1)

/-- Saturation by the sign of the working value (40_converter.md R85). -/
def saturateBySign (w : Int) : Int := if w < 0 then int16Min else int16Max

/-- The result of a conversion's rounds: the working value where both budgets are spent, else the saturation of the no-progress
state (40_converter.md R85). Log entry 8. -/
def finishRounds (r : Int × Nat) : Int := if r.2 = 0 then r.1 else saturateBySign r.1

/-- elapsed(now) = wrap16(now - ts) (41_tracker.md R121). -/
def elapsed (now ts : BitVec 16) : BitVec 16 := now - ts

/-- The settle test of WaitingSettle: the elapsed time strictly exceeds SETTLE_DELAY (41_tracker.md R129). -/
def settled (p : Config.Params) (ts now : BitVec 16) : Bool := p.settleDelay.val < (elapsed now ts).toNat

/-- What the collaborator does about the request in flight, the n-th: the word it answers, if it answers now, and the rest
of its script (20_memory.md R43, R48). -/
def Collaborator.poll (n : Nat) : Collaborator → Option (BitVec 16) × Collaborator
  | .free => (some (Config.statusWord n), .free)
  | .silent => (none, .silent)
  | .word w next => (some w, next)
  | .late next => (none, next)

/-- The script after a request was aborted: its answer, if one arrives later, is discarded (70_reset_and_hazards.md R182). -/
def Collaborator.discard : Collaborator → Collaborator
  | .free => .free
  | .silent => .silent
  | .word _ next => next
  | .late next => next.discard

/-- A script of answers, one for each of the next requests, and then `next`. -/
def Collaborator.answers : List (BitVec 16) → Collaborator → Collaborator
  | [], next => next
  | w :: ws, next => .word w (Collaborator.answers ws next)

/-- The block requests one StatusRead and its TICK becomes pending (20_memory.md R48, steps 1 and 2). -/
def issueRead (now : BitVec 16) (s : State) : State :=
  { s with pending := some now, rsp := none, reads := s.reads + 1 }

/-- Reset (70_reset_and_hazards.md R180, R182; 60_exceptions.md R166): Start, timestamp zero, a pending command aborted without a
response, the answer of its StatusRead discarded. The host's later actions and the count of reads are not the block's. -/
def takeReset (s : State) : State :=
  { s with
    st := stStart
    ts := 0x0000#16
    pending := none
    rsp := none
    collab := if s.pending.isSome then s.collab.discard else s.collab }

end Sys2Proof.Machine
end

