-- ==== Sys2Proof/Machine/Converter.lean ====
section
/-! DEFINITION. The Fixed-Point Converter: DEC2IQ and IQ2DEC (40_converter.md). Each conversion is one pure function
of its operands (10_state.md R24, R25), on mathematical integers (00_scope.md R12). -/

namespace Sys2Proof.Machine

/-- The rounds of DEC2IQ: doublings preferred, budget 7 - d; divisions by 5 as fallback, budget d (40_converter.md R89). -/
def dec2iqRounds (value : Int) (d : Nat) : Int × Nat :=
  rescale halfGuard (· * 2) tdiv5 d (7 - d) value

/-- DEC2IQ (40_converter.md R87 to R90). -/
def dec2iq (p : Config.Params) (value : Int) (d : Nat) : Int :=
  match validRange d with
  | none => if 0 < value then int16Max else if value < 0 then int16Min else satZeroValue p.satZero
  | some (lo, hi) =>
    if value < lo then int16Min else if hi < value then int16Max else finishRounds (dec2iqRounds value d)

/-- The rounds of IQ2DEC: multiplications by 5 preferred, budget d; shifts as fallback, budget 7 - d (40_converter.md R98). -/
def iq2decRounds (value : Int) (d : Nat) : Int × Nat :=
  rescale fifthGuard (· * 5) asr1 (7 - d) d value

/-- The working value IQ2DEC starts from: MAX where decimals is invalid (40_converter.md R96). -/
def forcedValue (value : Int) (d : Nat) : Int := if 2 < d then int16Max else value

/-- IQ2DEC (40_converter.md R96 to R100). -/
def iq2dec (value : Int) (d : Nat) : Int :=
  if forcedValue value d = int16Min ∨ forcedValue value d = int16Max then forcedValue value d
  else finishRounds (iq2decRounds (forcedValue value d) d)

/-- The command DEC2IQ for given parameters: the response is the result, nothing else changes (40_converter.md R80, R90). -/
def dec2iqWith (p : Config.Params) (decimals : BitVec 8) (value : BitVec 16) (s : State) : State :=
  respond (int16Pattern (dec2iq p (valueOperand value) (decimalsOperand decimals))) s

/-- DEC2IQ (40_converter.md R90). -/
def execDec2iq (decimals : BitVec 8) (value : BitVec 16) (s : State) : Host.Outcome State Fault Refusal :=
  .next (dec2iqWith Config.hardware decimals value s)

/-- IQ2DEC: the response is the result, nothing else changes (40_converter.md R80, R100). -/
def execIq2dec (decimals : BitVec 8) (value : BitVec 16) (s : State) : Host.Outcome State Fault Refusal :=
  .next (respond (int16Pattern (iq2dec (valueOperand value) (decimalsOperand decimals))) s)

end Sys2Proof.Machine
end

