-- ==== Sys2Proof/Machine/Reserved.lean ====
section
/-! DEFINITION. The twelve reserved operation codes, each a no-operation with response 0x0000 (30_encoding.md R65,
60_exceptions.md R164). Log entry 9. -/

namespace Sys2Proof.Machine

/-- A command word whose OP is 0x0 (30_encoding.md R65). -/
def execReserved0 (s : State) : Host.Outcome State Fault Refusal := .next (noOperation s)

/-- A command word whose OP is 0x5 (30_encoding.md R65). -/
def execReserved5 (s : State) : Host.Outcome State Fault Refusal := .next (noOperation s)

/-- A command word whose OP is 0x6 (30_encoding.md R65). -/
def execReserved6 (s : State) : Host.Outcome State Fault Refusal := .next (noOperation s)

/-- A command word whose OP is 0x7 (30_encoding.md R65). -/
def execReserved7 (s : State) : Host.Outcome State Fault Refusal := .next (noOperation s)

/-- A command word whose OP is 0x8 (30_encoding.md R65). -/
def execReserved8 (s : State) : Host.Outcome State Fault Refusal := .next (noOperation s)

/-- A command word whose OP is 0x9 (30_encoding.md R65). -/
def execReserved9 (s : State) : Host.Outcome State Fault Refusal := .next (noOperation s)

/-- A command word whose OP is 0xA (30_encoding.md R65). -/
def execReservedA (s : State) : Host.Outcome State Fault Refusal := .next (noOperation s)

/-- A command word whose OP is 0xB (30_encoding.md R65). -/
def execReservedB (s : State) : Host.Outcome State Fault Refusal := .next (noOperation s)

/-- A command word whose OP is 0xC (30_encoding.md R65). -/
def execReservedC (s : State) : Host.Outcome State Fault Refusal := .next (noOperation s)

/-- A command word whose OP is 0xD (30_encoding.md R65). -/
def execReservedD (s : State) : Host.Outcome State Fault Refusal := .next (noOperation s)

/-- A command word whose OP is 0xE (30_encoding.md R65). -/
def execReservedE (s : State) : Host.Outcome State Fault Refusal := .next (noOperation s)

/-- A command word whose OP is 0xF (30_encoding.md R65). -/
def execReservedF (s : State) : Host.Outcome State Fault Refusal := .next (noOperation s)

end Sys2Proof.Machine
end

