-- ==== Sys2Proof/Machine/Flags.lean ====
section
/-! DEFINITION. The block's two indications: the busy flag it reads and the idle indication it returns (10_state.md R31, R32). It has no
condition codes and no sticky bits (R33). -/

namespace Sys2Proof.Machine

/-- The busy flag of a status word, bit BUSY_BIT: 1 while a write is in progress (10_state.md R31). No other bit is looked at
(41_tracker.md R134). -/
def busyFlag (p : Config.Params) (status : BitVec 16) : Bool := status.getLsbD p.busyBit.val

/-- The state `st` holds, by name, its three bits from bit 2 down (10_state.md R21, R22). -/
def phaseOf (st : BitVec 3) : Phase :=
  match st.getLsbD 2, st.getLsbD 1, st.getLsbD 0 with
  | false, false, false => .idle
  | false, false, true => .start
  | false, true, false => .writeIssued
  | false, true, true => .waitingSettle
  | true, false, false => .pollingBusy
  | true, false, true => .unrecognized
  | true, true, false => .unrecognized
  | true, true, true => .unrecognized

/-- The idle indication (10_state.md R32). -/
def isIdle (st : BitVec 3) : Bool := st == stIdle

/-- TICK's response for the state after the step (41_tracker.md R123, 30_encoding.md R66). -/
def idleWord (st : BitVec 3) : BitVec 16 := if isIdle st then 0x0001#16 else 0x0000#16

end Sys2Proof.Machine
end

