-- ==== Sys2Proof/Machine/Tracker.lean ====
section
/-! DEFINITION. The EEPROM Write-completion Tracker: ARM and TICK (41_tracker.md). -/

namespace Sys2Proof.Machine

/-- Whether a TICK performs its one StatusRead (41_tracker.md R132, R133; 20_memory.md R42). -/
def readsStatus (p : Config.Params) (st : BitVec 3) (ts now : BitVec 16) : Bool :=
  match phaseOf st with
  | .idle => false
  | .start => true
  | .writeIssued => false
  | .waitingSettle => p.settleFallthrough && settled p ts now
  | .pollingBusy => true
  | .unrecognized => false

/-- The transition function next(st, ts, busy, now) (41_tracker.md R122, R126 to R131, R133). Its result depends on `busy`
only where `readsStatus` holds (90_conflicts.md C9). -/
def nextSt (p : Config.Params) (st : BitVec 3) (ts : BitVec 16) (busy : Bool) (now : BitVec 16) : BitVec 3 :=
  match phaseOf st with
  | .idle => stIdle
  | .start => if busy then stStart else stIdle
  | .writeIssued => stWaitingSettle
  | .waitingSettle =>
    if settled p ts now then
      if p.settleFallthrough && !busy then stIdle else stPollingBusy
    else stWaitingSettle
  | .pollingBusy => if busy then stPollingBusy else stIdle
  | .unrecognized => stIdle

/-- The end of a TICK: the new `st`, and the idle indication of it as response (41_tracker.md R123, R125). -/
def completeTick (p : Config.Params) (now : BitVec 16) (busy : Bool) (s : State) : State :=
  respond (idleWord (nextSt p s.st s.ts busy now)) { s with st := nextSt p s.st s.ts busy now }

/-- A TICK whose StatusRead is in flight: if the collaborator answers, the TICK completes with the busy flag of the answer; if
not, it stays pending (20_memory.md R48, steps 3 to 5). Log entry 5. -/
def awaitAnswer (p : Config.Params) (now : BitVec 16) (s : State) : State :=
  match s.collab.poll s.reads with
  | (some status, rest) => completeTick p now (busyFlag p status) { s with pending := none, collab := rest }
  | (none, rest) => { s with collab := rest }

/-- TICK for given parameters (41_tracker.md R125): one StatusRead where the state asks for one, else the transition alone. -/
def tickWith (p : Config.Params) (now : BitVec 16) (s : State) : State :=
  if readsStatus p s.st s.ts now then awaitAnswer p now (issueRead now s) else completeTick p now false s

/-- ARM (41_tracker.md R124): WriteIssued and the timestamp, whatever the state was; no StatusRead, response 0x0000. -/
def execArm (now : BitVec 16) (s : State) : Host.Outcome State Fault Refusal :=
  .next (respond 0x0000#16 { s with st := stWriteIssued, ts := nowOperand now })

/-- TICK (41_tracker.md R125). -/
def execTick (now : BitVec 16) (s : State) : Host.Outcome State Fault Refusal :=
  .next (tickWith Config.hardware (nowOperand now) s)

end Sys2Proof.Machine
end

