-- ==== Sys2Proof/Machine/Dispatch.lean ====
section
/-! DEFINITION. One arm per command (30_encoding.md R61). The ignored bits reach no meaning (R64). -/

namespace Sys2Proof.Machine

def exec (i : Instr) (s : State) : Host.Outcome State Fault Refusal :=
  match i with
  | .dec2iq _ decimals value => Sys2Proof.Machine.execDec2iq decimals value s
  | .iq2dec _ decimals value => Sys2Proof.Machine.execIq2dec decimals value s
  | .arm _ _ now => Sys2Proof.Machine.execArm now s
  | .tick _ _ now => Sys2Proof.Machine.execTick now s
  | .reserved0 _ => Sys2Proof.Machine.execReserved0 s
  | .reserved5 _ => Sys2Proof.Machine.execReserved5 s
  | .reserved6 _ => Sys2Proof.Machine.execReserved6 s
  | .reserved7 _ => Sys2Proof.Machine.execReserved7 s
  | .reserved8 _ => Sys2Proof.Machine.execReserved8 s
  | .reserved9 _ => Sys2Proof.Machine.execReserved9 s
  | .reservedA _ => Sys2Proof.Machine.execReservedA s
  | .reservedB _ => Sys2Proof.Machine.execReservedB s
  | .reservedC _ => Sys2Proof.Machine.execReservedC s
  | .reservedD _ => Sys2Proof.Machine.execReservedD s
  | .reservedE _ => Sys2Proof.Machine.execReservedE s
  | .reservedF _ => Sys2Proof.Machine.execReservedF s

end Sys2Proof.Machine
end

