-- ==== Sys2Proof/Machine/Fetch.lean ====
section
/-! DEFINITION. Which event comes next: the transaction rules of the ports (30_encoding.md R70; 20_memory.md R47;
60_exceptions.md R166). -/

namespace Sys2Proof.Machine

/-- The next transaction-level event. -/
inductive Event where
  /-- `rst` is asserted. -/
  | reset
  /-- A TICK with this `now` is pending on its StatusRead. -/
  | awaiting (now : BitVec 16)
  /-- The block accepts this command word. -/
  | accept (w : BitVec 32)
  /-- The host does nothing and nothing is pending. -/
  | quiet
deriving DecidableEq, Repr

/-- Reset has priority over everything (60_exceptions.md R166). A pending command keeps `cmd_ready` false, so an offered command
waits until the response (30_encoding.md R70, 20_memory.md R47). Log entry 6. -/
def nextEvent (s : State) : Event :=
  match s.host, s.pending with
  | .reset :: _, _ => .reset
  | _, some now => .awaiting now
  | .command w :: _, none => .accept w
  | [], none => .quiet

/-- The host's event at the front is over. -/
def popHost (s : State) : State := { s with host := s.host.tail }

/-- The machine with a command word offered first, and able to accept it: nothing is pending. -/
def offerFirst (w : BitVec 32) (s : State) : State :=
  { s with host := .command w :: s.host, pending := none }

end Sys2Proof.Machine
end

