-- ==== Sys2Proof/Machine/Step.lean ====
section
/-! DEFINITION. One step: the next transaction-level event (20_memory.md R47; 92_eei_decisions.md D1). Log entry 1. -/

namespace Sys2Proof.Machine

/-- One event: a reset, the wait of a pending TICK, the whole of an accepted command, or nothing. -/
def step (s : State) : Host.Outcome State Fault Refusal :=
  match nextEvent s with
  | .reset => .next (takeReset (popHost s))
  | .awaiting now => .next (awaitAnswer Config.hardware now s)
  | .accept w => exec (decode w) (popHost s)
  | .quiet => .next s

/-- The state in which the very next step accepts and runs the word `w`: the host offers it first and nothing is pending, so that
`cmd_ready` holds. Log entry 2. -/
def State.withFetchWord (s : State) (nbits w : Nat) : State :=
  offerFirst (BitVec.ofNat 32 (w % 2 ^ nbits)) s

end Sys2Proof.Machine
end

