-- ==== Sys2Proof/Machine/Assembler.lean ====
section
/-! DEFINITION. The assembler's syntax and a disassembler (30_encoding.md R67, R68), on lines of characters. Spaces, tabs, the
case of letters, and the sign and the zeros of a decimal are DESIGN CHOICES of log entry 13. -/

namespace Sys2Proof.Machine

/-- The value of a decimal digit. -/
def decDigit? (c : Char) : Option Nat :=
  if '0'.toNat ≤ c.toNat ∧ c.toNat ≤ '9'.toNat then some (c.toNat - '0'.toNat) else none

/-- The value of a hexadecimal digit. -/
def hexDigit? (c : Char) : Option Nat :=
  if '0'.toNat ≤ c.toNat ∧ c.toNat ≤ '9'.toNat then some (c.toNat - '0'.toNat)
  else if 'A'.toNat ≤ c.toNat ∧ c.toNat ≤ 'F'.toNat then some (c.toNat - 'A'.toNat + 10)
  else if 'a'.toNat ≤ c.toNat ∧ c.toNat ≤ 'f'.toNat then some (c.toNat - 'a'.toNat + 10)
  else none

/-- The number that digits of a base spell, continuing from `acc`. -/
def digitsFrom (base : Nat) (digit : Char → Option Nat) : Nat → List Char → Option Nat
  | acc, [] => some acc
  | acc, c :: cs =>
    match digit c with
    | some v => digitsFrom base digit (acc * base + v) cs
    | none => none

/-- An unsigned decimal, at least one digit. R67 is silent on leading zeros and on a sign before it: any number of leading zeros is
accepted and a '+' or '-' is refused. DESIGN CHOICE (log entry 13). -/
def decimal? (cs : List Char) : Option Nat := if cs.isEmpty then none else digitsFrom 10 decDigit? 0 cs

/-- `0x0000` to `0xFFFF`: a 16-bit pattern in hexadecimal (30_encoding.md R67). Exactly four digits, letters of either case after a
small `x`, and no sign before it: DESIGN CHOICE (log entry 13). -/
def hex16? : List Char → Option (BitVec 16)
  | '0' :: 'x' :: ds => if ds.length = 4 then (digitsFrom 16 hexDigit? 0 ds).map (BitVec.ofNat 16) else none
  | _ => none

/-- `<value>`: a signed decimal in -32768 to 32767, or a 16-bit hexadecimal that stands for its bit pattern (30_encoding.md R67). R67 is
silent on the sign's form: '-' directly before the digits is the only one, '+' is refused, '-0' reads as 0, and leading zeros are as
`decimal?` says. DESIGN CHOICE (log entry 13). -/
def valueText? (cs : List Char) : Option (BitVec 16) :=
  match hex16? cs with
  | some h => some h
  | none =>
    match cs with
    | '-' :: ds => (decimal? ds).bind fun n => if n ≤ 32768 then some (BitVec.ofInt 16 (-(n : Int))) else none
    | ds => (decimal? ds).bind fun n => if n ≤ 32767 then some (BitVec.ofNat 16 n) else none

/-- `<decimals>`: an unsigned decimal in 0 to 255 (30_encoding.md R67), with no sign, zeros as `decimal?` says. -/
def decimalsText? (cs : List Char) : Option (BitVec 8) :=
  (decimal? cs).bind fun n => if n ≤ 255 then some (BitVec.ofNat 8 n) else none

/-- `<now>`: an unsigned decimal in 0 to 65535, or a 16-bit hexadecimal (30_encoding.md R67), with no sign, zeros as `decimal?` says. -/
def nowText? (cs : List Char) : Option (BitVec 16) :=
  match hex16? cs with
  | some h => some h
  | none => (decimal? cs).bind fun n => if n ≤ 65535 then some (BitVec.ofNat 16 n) else none

/-- A space or a tab. -/
def isBlank (c : Char) : Bool := c == ' ' || c == '\t'

/-- The characters without the blanks at either end. -/
def trimBlanks (cs : List Char) : List Char := ((cs.dropWhile isBlank).reverse.dropWhile isBlank).reverse

/-- The parts between commas. -/
def splitCommas : List Char → List (List Char)
  | [] => [[]]
  | c :: cs =>
    if c = ',' then [] :: splitCommas cs
    else
      match splitCommas cs with
      | [] => [[c]]
      | part :: parts => (c :: part) :: parts

/-- What the assembler makes of a line. -/
inductive AsmLine where
  /-- A line with no command: blank, or a comment alone. -/
  | blank
  /-- The command's word. -/
  | word (w : BitVec 32)
  /-- Refused: an unknown mnemonic, a wrong number of operands, or an operand that is not of its form. -/
  | refused
deriving DecidableEq, Repr

/-- The mnemonic `DEC2IQ`. -/
def dec2iqText : List Char := ['D', 'E', 'C', '2', 'I', 'Q']
/-- The mnemonic `IQ2DEC`. -/
def iq2decText : List Char := ['I', 'Q', '2', 'D', 'E', 'C']
/-- The mnemonic `ARM`. -/
def armText : List Char := ['A', 'R', 'M']
/-- The mnemonic `TICK`. -/
def tickText : List Char := ['T', 'I', 'C', 'K']

/-- The command a mnemonic and its operands spell; RSV, and DEC of ARM and TICK, are written as zero (30_encoding.md R67, R68). -/
def commandText? (mnemonic : List Char) (operands : List (List Char)) : Option Instr :=
  match operands with
  | [a, b] =>
    if mnemonic = dec2iqText then (valueText? a).bind fun v => (decimalsText? b).map fun d => .dec2iq 0 d v
    else if mnemonic = iq2decText then (valueText? a).bind fun v => (decimalsText? b).map fun d => .iq2dec 0 d v
    else none
  | [a] =>
    if mnemonic = armText then (nowText? a).map fun now => .arm 0 0 now
    else if mnemonic = tickText then (nowText? a).map fun now => .tick 0 0 now
    else none
  | _ => none

/-- One line: a `;` begins a comment to the end of the line, the first word is the mnemonic, commas part the operands
(30_encoding.md R67). -/
def assembleLine (line : List Char) : AsmLine :=
  let text := trimBlanks (line.takeWhile (· != ';'))
  if text.isEmpty then .blank
  else
    match commandText? (text.takeWhile (!isBlank ·)) ((splitCommas (text.dropWhile (!isBlank ·))).map trimBlanks) with
    | some i => .word (encode i)
    | none => .refused

/-- The character of a digit below 16, capitals over 9. -/
def digitChar (n : Nat) : Char := if n < 10 then Char.ofNat ('0'.toNat + n) else Char.ofNat ('A'.toNat + (n - 10))

/-- A number below 10 to the power `places`, in decimal without leading zeros, before `acc`. -/
def decimalText : (places : Nat) → Nat → List Char → List Char
  | 0, _, acc => acc
  | k + 1, n, acc => if n < 10 then digitChar n :: acc else decimalText k (n / 10) (digitChar (n % 10) :: acc)

/-- The low `places` hexadecimal digits of a number, before `acc`. -/
def hexText : (places : Nat) → Nat → List Char → List Char
  | 0, _, acc => acc
  | k + 1, n, acc => hexText k (n / 16) (digitChar (n % 16) :: acc)

/-- A signed decimal value. -/
def valueText (v : BitVec 16) : List Char :=
  if v.toInt < 0 then '-' :: decimalText 5 v.toInt.natAbs [] else decimalText 5 v.toInt.natAbs []

/-- `.word 0xXXXXXXXX`, as a reserved word is printed (30_encoding.md R67). -/
def wordText (w : BitVec 32) : List Char := ['.', 'w', 'o', 'r', 'd', ' ', '0', 'x'] ++ hexText 8 w.toNat []

/-- The line a command prints as (30_encoding.md R67); ignored bits are not printed. -/
def commandText : Instr → List Char
  | .dec2iq _ d v => dec2iqText ++ [' '] ++ valueText v ++ [',', ' '] ++ decimalText 3 d.toNat []
  | .iq2dec _ d v => iq2decText ++ [' '] ++ valueText v ++ [',', ' '] ++ decimalText 3 d.toNat []
  | .arm _ _ now => armText ++ [' '] ++ decimalText 5 now.toNat []
  | .tick _ _ now => tickText ++ [' '] ++ decimalText 5 now.toNat []
  | .reserved0 rest => wordText (encode (.reserved0 rest))
  | .reserved5 rest => wordText (encode (.reserved5 rest))
  | .reserved6 rest => wordText (encode (.reserved6 rest))
  | .reserved7 rest => wordText (encode (.reserved7 rest))
  | .reserved8 rest => wordText (encode (.reserved8 rest))
  | .reserved9 rest => wordText (encode (.reserved9 rest))
  | .reservedA rest => wordText (encode (.reservedA rest))
  | .reservedB rest => wordText (encode (.reservedB rest))
  | .reservedC rest => wordText (encode (.reservedC rest))
  | .reservedD rest => wordText (encode (.reservedD rest))
  | .reservedE rest => wordText (encode (.reservedE rest))
  | .reservedF rest => wordText (encode (.reservedF rest))

/-- The disassembler: the line of a command word. -/
def disassemble (w : BitVec 32) : List Char := commandText (decode w)

end Sys2Proof.Machine
end

