-- ==== Sys2Proof/Machine/Interface.lean ====
section
/-! DEFINITION. The interface signals of 30_encoding.md R70, read off a state: the ports the host and the collaborator see and
drive, and the events on them. Clock-level timing is not specified (70_reset_and_hazards.md R191), so a signal is what it is between
two events. -/

namespace Sys2Proof.Machine

/-- `cmd_valid` and `cmd_word`: the command word the host offers, if it offers one. -/
def cmdOffered (s : State) : Option (BitVec 32) :=
  match s.host with
  | .command w :: _ => some w
  | _ => none

/-- `cmd_ready`: false from a command's acceptance until its response (30_encoding.md R70). -/
def cmdReady (s : State) : Bool := s.pending.isNone

/-- `rst`. -/
def rstAsserted (s : State) : Bool := s.host.head? == some .reset

/-- A command is accepted in the event where `cmd_valid` and `cmd_ready` are both true and `rst` is not
(30_encoding.md R70, 60_exceptions.md R166). -/
def accepts (s : State) : Bool := (cmdOffered s).isSome && cmdReady s

/-- `rsp_valid`: the last event that gave or withheld a response gave one. -/
def rspValid (s : State) : Bool := s.rsp.isSome

/-- `rsp_word`. -/
def rspWord (s : State) : Option (BitVec 16) := s.rsp

/-- How many `stat_req` events lie between two states. -/
def statRequests (before after : State) : Nat := after.reads - before.reads

/-- `stat_valid` and `stat_word` in the next step: the word the collaborator delivers for the request in flight, where the step waits
for it, or accepts the TICK that makes it. A reset discards the answer, so nothing is delivered in one (70_reset_and_hazards.md R182). -/
def statDelivered (s : State) : Option (BitVec 16) :=
  match nextEvent s, step s with
  | .awaiting _, .next _ => (s.collab.poll s.reads).1
  | .accept _, .next t => if statRequests s t = 0 then none else (s.collab.poll t.reads).1
  | _, _ => none

/-- An event on the ports (30_encoding.md R70): what the host does, a StatusRead's request and its answer, a response. -/
inductive PortEvent where
  /-- `rst` is asserted. -/
  | reset
  /-- The block accepts a command word. -/
  | command (w : BitVec 32)
  /-- `stat_req`: the block requests one StatusRead. -/
  | statRequest
  /-- `stat_valid`: the collaborator delivers this status word, and the block consumes it. -/
  | statWord (w : BitVec 16)
  /-- `rsp_valid`: the block gives this response. -/
  | response (r : BitVec 16)
deriving DecidableEq, Repr

/-- What the host does on the ports in a step. -/
def hostPorts : Event → List PortEvent
  | .reset => [.reset]
  | .awaiting _ => []
  | .accept w => [.command w]
  | .quiet => []

end Sys2Proof.Machine
end

