-- ==== Sys2Proof/Safety.lean ====
section
/-! DEFINITION. The terms claims use: the invariants, the responses of a run, the working values of a conversion, and the spec's
pseudocode of the two conversions written out as loops, to compare the model with. No step uses anything of this file. -/

namespace Sys2Proof.Safety

open Sys2Proof.Machine

/-- `st` holds one of the five states (10_state.md R22). -/
def recognized (s : State) : Bool := phaseOf s.st != .unrecognized

/-- A TICK is pending only in a state in which a TICK reads the status (20_memory.md R42, R48). -/
def pendingReads (s : State) : Bool :=
  match s.pending with
  | none => true
  | some now => readsStatus Config.hardware s.st s.ts now

/-- While a TICK is pending its response has not been given (20_memory.md R47, 30_encoding.md R70). -/
def pendingSilent (s : State) : Bool := s.pending.isNone || s.rsp.isNone

/-- The invariant of the machine. -/
def TrackerInv (s : State) : Prop := recognized s = true ∧ pendingReads s = true ∧ pendingSilent s = true

/-- The response event of the next step, if it has one (30_encoding.md R66, R70): the step accepts a command or waits for an
answer, and afterwards nothing is pending. -/
def stepResponse (s : State) : Option (BitVec 16) :=
  match nextEvent s, step s with
  | .accept _, .next t => if t.pending.isNone then t.rsp else none
  | .awaiting _, .next t => if t.pending.isNone then t.rsp else none
  | _, _ => none

/-- The responses of the next `n` steps, in order (70_reset_and_hazards.md R192). -/
def responses : Nat → State → List (BitVec 16)
  | 0, _ => []
  | n + 1, s =>
    match step s with
    | .next t => (stepResponse s).toList ++ responses n t
    | _ => []

/-- The port events of the next step, in the order of 20_memory.md R48: acceptance, request, answer, response. -/
def stepEvents (s : State) : List PortEvent :=
  match step s with
  | .next t =>
    hostPorts (nextEvent s) ++ List.replicate (statRequests s t) .statRequest ++
      (statDelivered s).toList.map .statWord ++ (stepResponse s).toList.map .response
  | _ => []

/-- The port events of the next `n` steps, in order (70_reset_and_hazards.md R192). -/
def events : Nat → State → List PortEvent
  | 0, _ => []
  | n + 1, s =>
    match step s with
    | .next t => stepEvents s ++ events n t
    | _ => []

/-- The host's event that a port event is, if it is one. -/
def hostEvent? : PortEvent → Option HostEvent
  | .reset => some .reset
  | .command w => some (.command w)
  | .statRequest => none
  | .statWord _ => none
  | .response _ => none

/-- The response word that a port event gives, if it gives one. -/
def response? : PortEvent → Option (BitVec 16)
  | .reset => none
  | .command _ => none
  | .statRequest => none
  | .statWord _ => none
  | .response r => some r

/-- A response, or an event of a StatusRead: what the end of a run shows (70_reset_and_hazards.md R192). -/
def observable : PortEvent → Bool
  | .reset => false
  | .command _ => false
  | .statRequest => true
  | .statWord _ => true
  | .response _ => true

/-- A run has ended: nothing is left to do and no command is pending (70_reset_and_hazards.md R192). -/
def runEnded (s : State) : Bool := s.host.isEmpty && s.pending.isNone

/-- `n` steps, stopping where one has no next state (70_reset_and_hazards.md R192). -/
def run : Nat → State → Host.Outcome State Fault Refusal
  | 0, s => .next s
  | n + 1, s =>
    match step s with
    | .next t => run n t
    | .fault r => .fault r
    | .refused r => .refused r

/-- What the end of a run shows: `st`, `ts`, and the sequence of responses and StatusRead events (70_reset_and_hazards.md R192). -/
structure EndState where
  /-- The tracker's state. -/
  st : BitVec 3
  /-- The timestamp. -/
  ts : BitVec 16
  /-- The responses, and the requests and answers of the StatusReads, in order. -/
  observed : List PortEvent
deriving DecidableEq, Repr

/-- What `n` steps leave to observe, where the run has ended after them; none where it has not, as with a command still pending
(70_reset_and_hazards.md R192). -/
def endState (n : Nat) (s : State) : Option EndState :=
  match run n s with
  | .next t => if runEnded t then some ⟨t.st, t.ts, (events n s).filter observable⟩ else none
  | _ => none

/-- The host's events that offer these command words, in order. -/
def commands (ws : List CmdWord) : List HostEvent := ws.map .command

/-- The word is a TICK, whatever its ignored bits are (30_encoding.md R61, R64). -/
def isTick (w : CmdWord) : Prop := opField w = 0x4#4

/-- The word is an ARM, whatever its ignored bits are (30_encoding.md R61, R64). -/
def isArm (w : CmdWord) : Prop := opField w = 0x3#4

/-- The port events of a command that completes (30_encoding.md R70, 20_memory.md R48): its response after its acceptance, or, for a
TICK that reads, between the two the request and the answer, whose busy flag decides the response. -/
def isCompleted (es : List PortEvent) : Prop :=
  (∃ w r, es = [.command w, .response r]) ∨
  ∃ w status, isTick w ∧
    es = [.command w, .statRequest, .statWord status, .response (if status.getLsbD 13 then 0x0000#16 else 0x0001#16)]

/-- The port events of a TICK that waits for its StatusRead (20_memory.md R48). -/
def isWaiting (es : List PortEvent) : Prop := ∃ w, isTick w ∧ es = [.command w, .statRequest]

/-- The port events of a reset, with those of the TICK it aborts, if it aborts one (70_reset_and_hazards.md R182). -/
def isReset (es : List PortEvent) : Prop := es = [.reset] ∨ ∃ waiting, isWaiting waiting ∧ es = waiting ++ [.reset]

/-- A script that leaves the request in flight unanswered `n` times and then goes on. -/
def delayed : Nat → Collaborator → Collaborator
  | 0, next => next
  | n + 1, next => .late (delayed n next)

/-- Two states that differ at most in `ts`, and in that only where no TICK can read it before an ARM writes it
(10_state.md R36). -/
def sameButUnreadTs (s t : State) : Prop :=
  t = { s with ts := t.ts } ∧ (phaseOf s.st = .writeIssued ∨ phaseOf s.st = .waitingSettle → t.ts = s.ts)

/-- An int16 value (00_scope.md R11). -/
def isInt16 (v : Int) : Prop := int16Min ≤ v ∧ v ≤ int16Max

/-- The working values of one round's preferred steps. -/
def preferTrace (guard : Int → Bool) (f : Int → Int) : Nat → Int → List Int
  | 0, w => [w]
  | n + 1, w => if guard w then w :: preferTrace guard f n (f w) else [w]

/-- Every working value of a conversion's rounds, from the input to the last (40_converter.md R84). -/
def rescaleTrace (guard : Int → Bool) (prefer fall : Int → Int) : (q p : Nat) → (w : Int) → List Int
  | 0, p, w => preferTrace guard prefer p w
  | q + 1, p, w =>
    preferTrace guard prefer p w ++
      rescaleTrace guard prefer fall q (preferSteps guard prefer p w).2 (fall (preferSteps guard prefer p w).1)

/-- The working values of DEC2IQ's rounds. -/
def dec2iqTrace (value : Int) (d : Nat) : List Int := rescaleTrace halfGuard (· * 2) tdiv5 d (7 - d) value

/-- The working values of IQ2DEC's rounds. -/
def iq2decTrace (value : Int) (d : Nat) : List Int := rescaleTrace fifthGuard (· * 5) asr1 (7 - d) d value

/-- The inner loop of the pseudocode of 40_converter.md R90, at most `fuel` iterations. -/
def dec2iqInner : (fuel : Nat) → (w : Int) → (s : Nat) → Int × Nat
  | 0, w, s => (w, s)
  | fuel + 1, w, s => if s ≠ 0 ∧ -16384 < w ∧ w < 16383 then dec2iqInner fuel (w * 2) (s - 1) else (w, s)

/-- The outer loop of the pseudocode of 40_converter.md R90, at most `fuel` rounds; none where it has not returned by then. -/
def dec2iqLoop : (fuel : Nat) → (w : Int) → (s k : Nat) → Option Int
  | 0, w, s, k => if s = 0 ∧ k = 0 then some w else none
  | fuel + 1, w, s, k =>
    if s = 0 ∧ k = 0 then some w
    else
      let (w, s) := dec2iqInner s w s
      if k ≠ 0 then dec2iqLoop fuel (w.tdiv 5) s (k - 1)
      else if s ≠ 0 then some (if w < 0 then -32768 else 32767)
      else dec2iqLoop fuel w s k

/-- The pseudocode of 40_converter.md R90, its outer loop cut off after seven rounds (R91). -/
def dec2iqPseudo (satZero value : Int) (d : Nat) : Option Int :=
  if 2 < d then
    if 0 < value then some 32767 else if value < 0 then some (-32768) else some satZero
  else
    let lo : Int := if d = 0 then -256 else if d = 1 then -2560 else -25600
    let hi : Int := if d = 0 then 255 else if d = 1 then 2559 else 25599
    if value < lo then some (-32768) else if hi < value then some 32767 else dec2iqLoop 7 value (7 - d) d

/-- The inner loop of the pseudocode of 40_converter.md R100, at most `fuel` iterations. -/
def iq2decInner : (fuel : Nat) → (w : Int) → (k : Nat) → Int × Nat
  | 0, w, k => (w, k)
  | fuel + 1, w, k => if k ≠ 0 ∧ -6553 < w ∧ w < 6553 then iq2decInner fuel (w * 5) (k - 1) else (w, k)

/-- The outer loop of the pseudocode of 40_converter.md R100, at most `fuel` rounds; none where it has not returned by then. -/
def iq2decLoop : (fuel : Nat) → (w : Int) → (s k : Nat) → Option Int
  | 0, w, s, k => if s = 0 ∧ k = 0 then some w else none
  | fuel + 1, w, s, k =>
    if s = 0 ∧ k = 0 then some w
    else
      let (w, k) := iq2decInner k w k
      if s ≠ 0 then iq2decLoop fuel (w.fdiv 2) (s - 1) k
      else if k ≠ 0 then some (if w < 0 then -32768 else 32767)
      else iq2decLoop fuel w s k

/-- The pseudocode of 40_converter.md R100, its outer loop cut off after seven rounds (R101). -/
def iq2decPseudo (value : Int) (d : Nat) : Option Int :=
  let w := if 2 < d then 32767 else value
  if w = -32768 ∨ w = 32767 then some w else iq2decLoop 7 w (7 - d) d

end Sys2Proof.Safety
end

