-- ==== Sys2Proof/WellFormed.lean ====
section
/-! DEFINITION. Checks on commands and on configurations. Every `Instr` has a word and every word decodes (30_encoding.md R69),
so `Instr.wellFormed` shuts out no form: it says which words a conforming host issues (R64, R65) and an assembler
writes (R67). -/

namespace Sys2Proof

/-- The command is one an assembler writes: the ignored bits are zero ("Software should write them as zero", 30_encoding.md R64;
R67) and the operation is not reserved ("A conforming host never issues one", R65). -/
def Instr.wellFormed : Instr → Bool
  | .dec2iq rsv _ _ => rsv == 0
  | .iq2dec rsv _ _ => rsv == 0
  | .arm rsv dec _ => rsv == 0 && dec == 0
  | .tick rsv dec _ => rsv == 0 && dec == 0
  | .reserved0 _ => false
  | .reserved5 _ => false
  | .reserved6 _ => false
  | .reserved7 _ => false
  | .reserved8 _ => false
  | .reserved9 _ => false
  | .reservedA _ => false
  | .reservedB _ => false
  | .reservedC _ => false
  | .reservedD _ => false
  | .reservedE _ => false
  | .reservedF _ => false

/-- SETTLE_DELAY from a 16-bit number, refusing 65535 (00_scope.md R7, 70_reset_and_hazards.md R188). -/
def Config.settleDelay? (d : BitVec 16) : Option (Fin 65535) :=
  if h : d.toNat < 65535 then some ⟨d.toNat, h⟩ else none

/-- BUSY_BIT from a number, refusing a position outside the 16-bit status word (00_scope.md R8). -/
def Config.busyBit? (b : Nat) : Option (Fin 16) :=
  if h : b < 16 then some ⟨b, h⟩ else none

/-- SAT_ZERO from a word, refusing all but its two legal values (00_scope.md R9). -/
def Config.satZero? (z : BitVec 16) : Option Config.SatZero :=
  if z = 0x7FFF#16 then some .max else if z = 0x8000#16 then some .min else none

/-- A configuration, refused where one of its parameters is illegal (00_scope.md R7 to R10). -/
def Config.params? (delay : BitVec 16) (busyBit : Nat) (satZero : BitVec 16) (fallthrough : Bool) : Option Config.Params :=
  match Config.settleDelay? delay, Config.busyBit? busyBit, Config.satZero? satZero with
  | some d, some b, some z => some ⟨d, b, z, fallthrough⟩
  | _, _, _ => none

end Sys2Proof
end

