-- ==== Sys2Proof/Certificates/Slice0/Obligations.lean ====
section
/-! DEFINITION. The statements for the provers, each from numbered rules of spec/. -/

open Sys2Proof Sys2Proof.Machine Sys2Proof.Safety

/-! ### Encoding (30_encoding.md) -/

/-- Words of 95_test_vectors.md section 4 decode to the commands listed there (30_encoding.md R60 to R65). -/
def Obligations.WorkedWordsDecode : Prop :=
  decode 0x1001005F#32 = .dec2iq 0 1 95 ∧
  decode 0x1001FFFF#32 = .dec2iq 0 1 (BitVec.ofInt 16 (-1)) ∧
  decode 0x10023039#32 = .dec2iq 0 2 12345 ∧
  decode 0x200104C0#32 = .iq2dec 0 1 1216 ∧
  decode 0x20028000#32 = .iq2dec 0 2 (BitVec.ofInt 16 (-32768)) ∧
  decode 0x3000FFFA#32 = .arm 0 0 65530 ∧
  decode 0x40000005#32 = .tick 0 0 5 ∧
  decode 0x1F01005F#32 = .dec2iq 0xF 1 95 ∧
  decode 0x3ABCFFFA#32 = .arm 0xA 0xBC 65530 ∧
  decode 0x4F12000B#32 = .tick 0xF 0x12 11 ∧
  decode 0x00000000#32 = .reserved0 0 ∧
  decode 0x5000FFFF#32 = .reserved5 0xFFFF ∧
  decode 0xF123ABCD#32 = .reservedF 0x123ABCD

/-- Decoding the word of any command gives the command back, with every operand and every ignored bit. -/
def Obligations.DecodeEncodeAgree : Prop := ∀ i : Instr, decode (encode i) = i

/-- Every 32-bit word is the word of the command it decodes to: decoding is total and loses no bit (30_encoding.md R69). -/
def Obligations.EncodeDecodeAgree : Prop := ∀ w : CmdWord, encode (decode w) = w

/-- Exactly one row of spec/opcode_table.json selects a word, and it names the command the word decodes to. -/
def Obligations.OneTableRowSelectsEachWord : Prop :=
  ∀ w : CmdWord, opcodeTable.countP (·.selects w) = 1 ∧
    ∀ r ∈ opcodeTable, r.selects w = true → r.mnemonic = mnemonicOf (decode w) ∧ r.pattern.extractLsb' 28 4 = opOf (decode w)

/-- 30_encoding.md R62, R63: what the operand fields of an accepted word are, and that nothing else of the word matters. -/
def Obligations.OperandFieldsReachTheCommand : Prop :=
  ∀ (w : CmdWord) (s : State), s.pending = none →
    (w.extractLsb' 28 4 = 0x1#4 →
      step (offerFirst w s) = .next { s with rsp := some (BitVec.ofInt 16
        (dec2iq Config.hardware (w.extractLsb' 0 16).toInt (w.extractLsb' 16 8).toNat)) }) ∧
    (w.extractLsb' 28 4 = 0x2#4 →
      step (offerFirst w s) = .next { s with rsp := some (BitVec.ofInt 16
        (iq2dec (w.extractLsb' 0 16).toInt (w.extractLsb' 16 8).toNat)) }) ∧
    (w.extractLsb' 28 4 = 0x3#4 →
      step (offerFirst w s) = .next { s with st := 0b010#3, ts := w.extractLsb' 0 16, rsp := some 0x0000#16 }) ∧
    (w.extractLsb' 28 4 = 0x4#4 →
      step (offerFirst w s) = .next (tickWith Config.hardware (w.extractLsb' 0 16) s))

/-- 30_encoding.md R64: two words that differ in ignored bits only (RSV; DEC of ARM and TICK; all but OP of a reserved word) do
the same. -/
def Obligations.IgnoredBitsChangeNothing : Prop :=
  ∀ (w v : CmdWord) (s : State), opField w = opField v →
    (opField w = 0x1#4 ∨ opField w = 0x2#4 → decField w = decField v ∧ opndField w = opndField v) →
    (opField w = 0x3#4 ∨ opField w = 0x4#4 → opndField w = opndField v) →
    step (offerFirst w s) = step (offerFirst v s)

/-- 30_encoding.md R65: each of the twelve reserved codes is a no-operation with response 0x0000. -/
def Obligations.ReservedIsNoOperation : Prop :=
  ∀ (rest : BitVec 28) (s : State),
    exec (.reserved0 rest) s = .next { s with rsp := some 0x0000#16 } ∧
    exec (.reserved5 rest) s = .next { s with rsp := some 0x0000#16 } ∧
    exec (.reserved6 rest) s = .next { s with rsp := some 0x0000#16 } ∧
    exec (.reserved7 rest) s = .next { s with rsp := some 0x0000#16 } ∧
    exec (.reserved8 rest) s = .next { s with rsp := some 0x0000#16 } ∧
    exec (.reserved9 rest) s = .next { s with rsp := some 0x0000#16 } ∧
    exec (.reservedA rest) s = .next { s with rsp := some 0x0000#16 } ∧
    exec (.reservedB rest) s = .next { s with rsp := some 0x0000#16 } ∧
    exec (.reservedC rest) s = .next { s with rsp := some 0x0000#16 } ∧
    exec (.reservedD rest) s = .next { s with rsp := some 0x0000#16 } ∧
    exec (.reservedE rest) s = .next { s with rsp := some 0x0000#16 } ∧
    exec (.reservedF rest) s = .next { s with rsp := some 0x0000#16 }

/-- 30_encoding.md R68: the assembler refuses any mnemonic but the four of R67, with any operands. -/
def Obligations.AssemblerRefusesOtherMnemonics : Prop :=
  ∀ (m : List Char) (operands : List (List Char)),
    m ≠ ['D', 'E', 'C', '2', 'I', 'Q'] → m ≠ ['I', 'Q', '2', 'D', 'E', 'C'] → m ≠ ['A', 'R', 'M'] → m ≠ ['T', 'I', 'C', 'K'] →
    commandText? m operands = none

/-- Assembling the printed line of a command with its ignored bits zero gives the command's word (30_encoding.md R67; the
disassembler's line for a command that is not reserved is the model's choice, log entry 13). -/
def Obligations.AssembleDisassembleAgree : Prop :=
  ∀ i : Instr, i.wellFormed = true → assembleLine (disassemble (encode i)) = .word (encode i)

/-! ### Steps, ports, reset (20_memory.md, 30_encoding.md R70, 60_exceptions.md, 70_reset_and_hazards.md) -/

/-- The next event, where the host offers a command word and nothing is pending, is the whole of the decoded command, with the
word taken off the host's list (20_memory.md R47, 30_encoding.md R69, R70). The host's list is the model's choice (log entries 1
and 2). -/
def Obligations.StepRunsDecodedCommand : Prop :=
  ∀ (s : State) (w : CmdWord) (rest : List HostEvent), s.host = .command w :: rest → s.pending = none →
    step s = exec (decode w) { s with host := rest }

/-- A command is accepted exactly where `cmd_valid` and `cmd_ready` are both true; afterwards `cmd_ready` is true exactly where its
response has been given (30_encoding.md R70). -/
def Obligations.CommandAcceptedWhenValidAndReady : Prop :=
  (∀ (s : State) (w : CmdWord), nextEvent s = .accept w ↔ cmdOffered s = some w ∧ cmdReady s = true) ∧
  ∀ (s t : State) (w : CmdWord), nextEvent s = .accept w → step s = .next t → cmdReady t = rspValid t

/-- While a command is pending and `rst` is not asserted the host's next command waits and no second StatusRead is requested
(20_memory.md R47, 30_encoding.md R70; read by inference, log entry 6). That the wait has a next state, where the read is not answered
too, is the model's choice (log entry 5); 60_exceptions.md R173 gives an unanswered TICK no step. -/
def Obligations.PendingCommandHoldsTheNext : Prop :=
  ∀ (s : State) (now : BitVec 16), s.pending = some now → s.host.head? ≠ some .reset →
    ∃ t, step s = .next t ∧ t.host = s.host ∧ t.ts = s.ts ∧ t.reads = s.reads

/-- 70_reset_and_hazards.md R180: what asserting `rst` leaves, whatever the state was, with the block ready again. -/
def Obligations.ResetRestoresStart : Prop :=
  ∀ (s : State) (rest : List HostEvent), s.host = .reset :: rest →
    ∃ t, step s = .next t ∧ t.st = 0b001#3 ∧ t.ts = 0x0000#16 ∧ t.pending = none ∧ cmdReady t = true ∧ t.host = rest ∧
      t.reads = s.reads

/-- 70_reset_and_hazards.md R182: a reset while a TICK is pending gives no response, leaves no effect of the TICK, and the answer of
its StatusRead, however late it comes, is discarded. -/
def Obligations.ResetAbortsPendingTick : Prop :=
  ∀ (s : State) (rest : List HostEvent) (now answer : BitVec 16) (n : Nat) (c : Collaborator),
    s.host = .reset :: rest → s.pending = some now → s.collab = delayed n (.word answer c) →
    stepResponse s = none ∧
    step s = .next { s with st := 0b001#3, ts := 0x0000#16, pending := none, rsp := none, host := rest, collab := c }

/-- 10_state.md R35: the state after reset. -/
def Obligations.ResetState : Prop :=
  State.reset.st = 0b001#3 ∧ State.reset.ts = 0x0000#16 ∧ State.reset.pending = none

/-- No command fails, for any operand and in any state (60_exceptions.md R160): each completes with a response, but for a TICK in
Start or PollingBusy whose StatusRead is not answered. That such a TICK is a next state in which it is pending, and that every step,
one that waits for an answer among them, has a next state, is the model's choice (log entry 5); 60_exceptions.md R173 gives
an unanswered TICK no step. -/
def Obligations.NoCommandFails : Prop :=
  (∀ (i : Instr) (s : State), s.pending = none → ∃ t, exec i s = .next t ∧
    ((t.pending = none ∧ t.rsp.isSome = true) ∨
      (opOf i = 0x4#4 ∧ (s.st = 0b001#3 ∨ s.st = 0b100#3) ∧ t.pending.isSome = true ∧ t.rsp = none ∧
        (s.collab.poll (s.reads + 1)).1 = none))) ∧
  ∀ s : State, ∃ t, step s = .next t

/-- 00_scope.md R7 and 70_reset_and_hazards.md R188: a settle delay of 65535 could never be exceeded; the model refuses it, accepts
every smaller one, and this hardware's is legal. -/
def Obligations.SettleDelayOf65535Refused : Prop :=
  (∀ now ts : BitVec 16, ¬ 65535 < (elapsed now ts).toNat) ∧
  Config.settleDelay? 0xFFFF#16 = none ∧
  (∀ d : BitVec 16, d ≠ 0xFFFF#16 → ∃ delay, Config.settleDelay? d = some delay ∧ delay.val = d.toNat) ∧
  Config.hardware.settleDelay.val ≤ 65534

/-! ### The converter (40_converter.md) -/

/-- 40_converter.md R81: the guard constants are the truncated quotients, and both guards compare strictly. -/
def Obligations.GuardConstants : Prop :=
  halfMin = (-32768 : Int).tdiv 2 ∧ halfMax = (32767 : Int).tdiv 2 ∧
  fifthMin = (-32768 : Int).tdiv 5 ∧ fifthMax = (32767 : Int).tdiv 5 ∧
  halfMin = -16384 ∧ halfMax = 16383 ∧ fifthMin = -6553 ∧ fifthMax = 6553 ∧
  (∀ w : Int, halfGuard w = true ↔ halfMin < w ∧ w < halfMax) ∧
  (∀ w : Int, fifthGuard w = true ↔ fifthMin < w ∧ w < fifthMax)

/-- 40_converter.md R82, R83: division by 5 truncates toward zero and fits in int16; the shift is the arithmetic right shift of the
16-bit pattern, floor(w / 2), and copies bit 15. -/
def Obligations.FallbackStepsRound : Prop :=
  (∀ w : Int, isInt16 w → tdiv5 w = w.tdiv 5 ∧ tdiv5 w = w.sign * (|w| / 5) ∧ isInt16 (tdiv5 w)) ∧
  tdiv5 (-6) = -1 ∧ tdiv5 (-4) = 0 ∧ tdiv5 6 = 1 ∧
  (∀ x : BitVec 16, asr1 x.toInt = (x.sshiftRight 1).toInt ∧ (x.sshiftRight 1).getLsbD 15 = x.getLsbD 15 ∧
    asr1 x.toInt = x.toInt.fdiv 2) ∧
  asr1 (-1) = -1 ∧ asr1 (-3) = -2 ∧ asr1 3 = 1

/-- 10_state.md R24: a conversion's result depends on the command's operands alone, and the command changes nothing but the
response. -/
def Obligations.ConverterIsPure : Prop :=
  ∀ (rsv : BitVec 4) (d : BitVec 8) (v : BitVec 16),
    (∀ s : State, exec (.dec2iq rsv d v) s =
      .next { s with rsp := some (BitVec.ofInt 16 (dec2iq Config.hardware v.toInt d.toNat)) }) ∧
    (∀ s : State, exec (.iq2dec rsv d v) s = .next { s with rsp := some (BitVec.ofInt 16 (iq2dec v.toInt d.toNat)) })

/-- 40_converter.md R90: the word with OP 0x1 is DEC2IQ, and DEC2IQ returns what its pseudocode returns, within the seven rounds of
R91, for every operand; it writes no state. -/
def Obligations.Dec2iqFollowsPseudocode : Prop :=
  ∀ (rsv : BitVec 4) (d : BitVec 8) (v : BitVec 16) (s : State),
    decode (0x1#4 ++ rsv ++ d ++ v) = .dec2iq rsv d v ∧ ∃ r : Int,
    dec2iqPseudo 32767 v.toInt d.toNat = some r ∧ isInt16 r ∧
    exec (.dec2iq rsv d v) s = .next { s with rsp := some (BitVec.ofInt 16 r) }

/-- 40_converter.md R100: the word with OP 0x2 is IQ2DEC, and IQ2DEC returns what its pseudocode returns, within the seven rounds of
R101, for every operand; it writes no state. -/
def Obligations.Iq2decFollowsPseudocode : Prop :=
  ∀ (rsv : BitVec 4) (d : BitVec 8) (v : BitVec 16) (s : State),
    decode (0x2#4 ++ rsv ++ d ++ v) = .iq2dec rsv d v ∧ ∃ r : Int,
    iq2decPseudo v.toInt d.toNat = some r ∧ isInt16 r ∧
    exec (.iq2dec rsv d v) s = .next { s with rsp := some (BitVec.ofInt 16 r) }

/-- 40_converter.md R86, R87: a value outside the inclusive range of its decimals saturates by the side it lies on. -/
def Obligations.Dec2iqOutOfRangeSaturates : Prop :=
  ∀ (rsv : BitVec 4) (d : BitVec 8) (v : BitVec 16) (s : State) (lo hi : Int),
    ((d = 0 ∧ lo = -256 ∧ hi = 255) ∨ (d = 1 ∧ lo = -2560 ∧ hi = 2559) ∨ (d = 2 ∧ lo = -25600 ∧ hi = 25599)) →
    (hi < v.toInt → exec (.dec2iq rsv d v) s = .next { s with rsp := some 0x7FFF#16 }) ∧
    (v.toInt < lo → exec (.dec2iq rsv d v) s = .next { s with rsp := some 0x8000#16 })

/-- 40_converter.md R88: with decimals over 2 DEC2IQ saturates by the sign of the value, and gives SAT_ZERO at zero, which is
0x7FFF on this hardware. -/
def Obligations.Dec2iqInvalidDecimalsSaturates : Prop :=
  ∀ (rsv : BitVec 4) (d : BitVec 8) (v : BitVec 16) (s : State), 2 < d.toNat →
    (0 < v.toInt → exec (.dec2iq rsv d v) s = .next { s with rsp := some 0x7FFF#16 }) ∧
    (v.toInt < 0 → exec (.dec2iq rsv d v) s = .next { s with rsp := some 0x8000#16 }) ∧
    (v.toInt = 0 → exec (.dec2iq rsv d v) s = .next { s with rsp := some 0x7FFF#16 } ∧
      ∀ p : Config.Params, dec2iqWith p d v s = { s with rsp := some (match p.satZero with
        | .max => 0x7FFF#16
        | .min => 0x8000#16) })

/-- 40_converter.md R91: no working value of DEC2IQ leaves int16, and at most seven rounds run. -/
def Obligations.Dec2iqNeverOverflows : Prop :=
  ∀ (d : Nat) (v : Int), d ≤ 2 → isInt16 v →
    (∀ w ∈ dec2iqTrace v d, isInt16 w) ∧ (dec2iqLoop 7 v (7 - d) d).isSome = true

/-- 40_converter.md R101: no working value of IQ2DEC leaves int16, and at most seven rounds run. -/
def Obligations.Iq2decNeverOverflows : Prop :=
  ∀ (d : Nat) (v : Int), d ≤ 2 → isInt16 v → v ≠ -32768 →
    (∀ w ∈ iq2decTrace v d, isInt16 w) ∧ (iq2decLoop 7 v (7 - d) d).isSome = true

/-- 40_converter.md R92: over the operands that DEC2IQ rescales, the no-progress state is reached for exactly three pairs, with
w = -16384 and one shift left, and each returns 0x8000. -/
def Obligations.Dec2iqStallsAtLowerBoundsOnly : Prop :=
  (∀ (d : Nat) (v lo hi : Int), validRange d = some (lo, hi) → lo ≤ v → v ≤ hi →
    ((dec2iqRounds v d).2 ≠ 0 ↔ (v = -256 ∧ d = 0) ∨ (v = -2560 ∧ d = 1) ∨ (v = -25600 ∧ d = 2)) ∧
    ((dec2iqRounds v d).2 ≠ 0 → dec2iqRounds v d = (-16384, 1))) ∧
  ∀ (rsv : BitVec 4) (s : State),
    exec (.dec2iq rsv 0 (BitVec.ofInt 16 (-256))) s = .next { s with rsp := some 0x8000#16 } ∧
    exec (.dec2iq rsv 1 (BitVec.ofInt 16 (-2560))) s = .next { s with rsp := some 0x8000#16 } ∧
    exec (.dec2iq rsv 2 (BitVec.ofInt 16 (-25600))) s = .next { s with rsp := some 0x8000#16 }

/-- 40_converter.md R93: with no decimals DEC2IQ multiplies by 128, exactly; above the lower bound every doubling passes its guard,
and at the lower bound the saturated 0x8000 is the exact value. -/
def Obligations.Dec2iqWholeDegreesExact : Prop :=
  ∀ (rsv : BitVec 4) (v : BitVec 16) (s : State), -256 ≤ v.toInt → v.toInt ≤ 255 →
    exec (.dec2iq rsv 0 v) s = .next { s with rsp := some (BitVec.ofInt 16 (v.toInt * 128)) } ∧ isInt16 (v.toInt * 128) ∧
    (v.toInt ≠ -256 → dec2iqRounds v.toInt 0 = (v.toInt * 128, 0)) ∧ (v.toInt = -256 → BitVec.ofInt 16 (v.toInt * 128) = 0x8000#16)

/-- 40_converter.md R94: the error bounds of DEC2IQ, and exactness where the exact result is an integer. -/
def Obligations.Dec2iqErrorBounds : Prop :=
  ∀ (d : Nat) (v lo hi : Int), validRange d = some (lo, hi) → lo ≤ v → v ≤ hi →
    ((10 : Int) ^ d ∣ v * 128 → dec2iq Config.hardware v d * 10 ^ d = v * 128) ∧
    (d = 0 → dec2iq Config.hardware v d = v * 128) ∧
    (d = 1 → |dec2iq Config.hardware v d * 10 - v * 128| ≤ 64) ∧
    (d = 2 → |dec2iq Config.hardware v d * 100 - v * 128| ≤ 1152)

/-- 40_converter.md R95: DEC2IQ is monotonic but for one step, and odd but for one pair; at that step and at that pair it is not
(95_test_vectors.md section 2.5). -/
def Obligations.Dec2iqMonotoneAndOdd : Prop :=
  (∀ (d : Nat) (v : Int), d ≤ 2 → isInt16 v → isInt16 (v + 1) → ¬ (d = 2 ∧ v = -16384) →
    dec2iq Config.hardware v d ≤ dec2iq Config.hardware (v + 1) d) ∧
  dec2iq Config.hardware (-16383) 2 < dec2iq Config.hardware (-16384) 2 ∧
  (∀ (d : Nat) (v lo hi : Int), validRange d = some (lo, hi) → lo ≤ v → v ≤ hi → lo ≤ -v → -v ≤ hi →
    ¬ (d = 2 ∧ (v = 16383 ∨ v = -16383)) → dec2iq Config.hardware (-v) d = -dec2iq Config.hardware v d) ∧
  dec2iq Config.hardware (-16383) 2 ≠ -dec2iq Config.hardware 16383 2

/-- 40_converter.md R96, R97: with decimals over 2 IQ2DEC returns 0x7FFF for every value, 0x8000 among them; with valid
decimals it returns the two extremes unchanged. -/
def Obligations.Iq2decSaturatedValues : Prop :=
  ∀ (rsv : BitVec 4) (d : BitVec 8) (s : State),
    (2 < d.toNat → ∀ v : BitVec 16, exec (.iq2dec rsv d v) s = .next { s with rsp := some 0x7FFF#16 }) ∧
    (d.toNat ≤ 2 → exec (.iq2dec rsv d 0x8000#16) s = .next { s with rsp := some 0x8000#16 }) ∧
    (d.toNat ≤ 2 → exec (.iq2dec rsv d 0x7FFF#16) s = .next { s with rsp := some 0x7FFF#16 })

/-- 40_converter.md R99: IQ2DEC never reaches the no-progress state. -/
def Obligations.Iq2decNeverStalls : Prop :=
  ∀ (d : Nat) (v : Int), d ≤ 2 → -32768 < v → v < 32767 → (iq2decRounds v d).2 = 0

/-- 40_converter.md R102: IQ2DEC is floor(value / 128) with no decimals, is bounded below and never rounds up with one or two, and
is monotonic over the values it converts. -/
def Obligations.Iq2decErrorBoundsAndMonotone : Prop :=
  (∀ v : Int, -32768 < v → v < 32767 →
    iq2dec v 0 = v.fdiv 128 ∧ -256 ≤ iq2dec v 0 ∧ iq2dec v 0 ≤ 255 ∧
    -182 ≤ iq2dec v 1 * 128 - v * 10 ∧ iq2dec v 1 * 128 - v * 10 ≤ 0 ∧
    -1180 ≤ iq2dec v 2 * 128 - v * 100 ∧ iq2dec v 2 * 128 - v * 100 ≤ 0) ∧
  ∀ (d : Nat) (v : Int), d ≤ 2 → -32768 < v → v + 1 < 32767 → iq2dec v d ≤ iq2dec (v + 1) d

/-- 40_converter.md R103: the round trip, by decimals, at the lower bounds and for exactly representable values. -/
def Obligations.RoundTripError : Prop :=
  ∀ (d : Nat) (v lo hi : Int), validRange d = some (lo, hi) → lo ≤ v → v ≤ hi →
    (v = lo → iq2dec (dec2iq Config.hardware v d) d = -32768) ∧
    (v ≠ lo →
      (d = 0 → iq2dec (dec2iq Config.hardware v d) d = v) ∧
      (d = 1 → iq2dec (dec2iq Config.hardware v d) d = v ∨ iq2dec (dec2iq Config.hardware v d) d = v - 1) ∧
      (d = 2 → |iq2dec (dec2iq Config.hardware v d) d - v| ≤ 9) ∧
      ((10 : Int) ^ d ∣ v * 128 → iq2dec (dec2iq Config.hardware v d) d = v))

/-! ### The tracker (41_tracker.md) -/

/-- 41_tracker.md R121: elapsed time is the unsigned difference modulo 65536; the spec's example. -/
def Obligations.ElapsedWraps : Prop :=
  (∀ now ts : BitVec 16, ((elapsed now ts).toNat : Int) = ((now.toNat : Int) - (ts.toNat : Int)) % 65536) ∧
  elapsed 5#16 65530#16 = 11#16

/-- 41_tracker.md R124, R135: the word with OP 0x3 is ARM, and ARM records the write in any state and restarts the tracking. -/
def Obligations.ArmRecordsTheWrite : Prop :=
  ∀ (rsv : BitVec 4) (dec : BitVec 8) (now : BitVec 16) (s : State),
    decode (0x3#4 ++ rsv ++ dec ++ now) = .arm rsv dec now ∧
    exec (.arm rsv dec now) s = .next { s with st := 0b010#3, ts := now, rsp := some 0x0000#16 }

/-- 41_tracker.md R126: TICK in Idle changes nothing, reads nothing and returns 1. -/
def Obligations.TickInIdle : Prop :=
  ∀ (rsv : BitVec 4) (dec : BitVec 8) (now : BitVec 16) (s : State), s.st = 0b000#3 →
    exec (.tick rsv dec now) s = .next { s with rsp := some 0x0001#16 }

/-- 41_tracker.md R127: TICK in Start reads once and goes to Idle exactly where the busy flag is 0. -/
def Obligations.TickInStart : Prop :=
  ∀ (rsv : BitVec 4) (dec : BitVec 8) (now status : BitVec 16) (s : State) (c : Collaborator), s.st = 0b001#3 →
    s.pending = none → s.collab.poll (s.reads + 1) = (some status, c) →
    (status.getLsbD 13 = false → exec (.tick rsv dec now) s =
      .next { s with st := 0b000#3, rsp := some 0x0001#16, collab := c, reads := s.reads + 1 }) ∧
    (status.getLsbD 13 = true → exec (.tick rsv dec now) s =
      .next { s with st := 0b001#3, rsp := some 0x0000#16, collab := c, reads := s.reads + 1 })

/-- 41_tracker.md R128: TICK in WriteIssued goes to WaitingSettle, whatever `now` and `ts` are, reads nothing and returns 0. -/
def Obligations.TickInWriteIssued : Prop :=
  ∀ (rsv : BitVec 4) (dec : BitVec 8) (now : BitVec 16) (s : State), s.st = 0b010#3 →
    exec (.tick rsv dec now) s = .next { s with st := 0b011#3, rsp := some 0x0000#16 }

/-- 41_tracker.md R129: TICK in WaitingSettle goes to PollingBusy exactly where the elapsed time exceeds SETTLE_DELAY, reads nothing
and returns 0 either way. -/
def Obligations.TickInWaitingSettle : Prop :=
  ∀ (rsv : BitVec 4) (dec : BitVec 8) (now : BitVec 16) (s : State), s.st = 0b011#3 →
    (Config.hardware.settleDelay.val < (now - s.ts).toNat →
      exec (.tick rsv dec now) s = .next { s with st := 0b100#3, rsp := some 0x0000#16 }) ∧
    ((now - s.ts).toNat ≤ Config.hardware.settleDelay.val →
      exec (.tick rsv dec now) s = .next { s with st := 0b011#3, rsp := some 0x0000#16 })

/-- 41_tracker.md R130: TICK in PollingBusy reads once and goes to Idle exactly where the busy flag is 0, whatever `now` and `ts` are. -/
def Obligations.TickInPollingBusy : Prop :=
  ∀ (rsv : BitVec 4) (dec : BitVec 8) (now status : BitVec 16) (s : State) (c : Collaborator), s.st = 0b100#3 →
    s.pending = none → s.collab.poll (s.reads + 1) = (some status, c) →
    (status.getLsbD 13 = false → exec (.tick rsv dec now) s =
      .next { s with st := 0b000#3, rsp := some 0x0001#16, collab := c, reads := s.reads + 1 }) ∧
    (status.getLsbD 13 = true → exec (.tick rsv dec now) s =
      .next { s with st := 0b100#3, rsp := some 0x0000#16, collab := c, reads := s.reads + 1 })

/-- 41_tracker.md R131: TICK in an unrecognized state resets it to Idle, reads nothing and returns 1. -/
def Obligations.TickInUnrecognizedState : Prop :=
  ∀ (rsv : BitVec 4) (dec : BitVec 8) (now : BitVec 16) (s : State), s.st = 0b101#3 ∨ s.st = 0b110#3 ∨ s.st = 0b111#3 →
    exec (.tick rsv dec now) s = .next { s with st := 0b000#3, rsp := some 0x0001#16 }

/-- 20_memory.md R48: a TICK whose StatusRead is not answered yet is pending, with its request made and nothing else changed; as
long as it is not answered it stays so, for ever where the collaborator never answers. That the wait is a state of its own, with
`st` and `ts` as they were, is the model's choice (log entry 5). -/
def Obligations.UnansweredTickStaysPending : Prop :=
  (∀ (rsv : BitVec 4) (dec : BitVec 8) (now : BitVec 16) (s : State) (c : Collaborator), s.st = 0b001#3 ∨ s.st = 0b100#3 →
    s.collab.poll (s.reads + 1) = (none, c) →
    exec (.tick rsv dec now) s =
      .next { s with pending := some now, rsp := none, collab := c, reads := s.reads + 1 }) ∧
  (∀ (now : BitVec 16) (s : State) (c : Collaborator), s.pending = some now → s.host.head? ≠ some .reset →
    s.collab.poll s.reads = (none, c) → step s = .next { s with collab := c }) ∧
  (∀ (n : Nat) (s : State), s.pending.isSome = true → s.host.head? ≠ some .reset → s.collab = .silent →
    run n s = .next s)

/-- A pending TICK completes when its StatusRead is answered (20_memory.md R48), by the answer's busy flag, bit 13, as a TICK answered
at once does: to Idle with response 0x0001, or staying with 0x0000 (10_state.md R31, 41_tracker.md R122, R123, R127, R130). That it
completes in an event of its own, later than the one that accepted it, is the model's choice (log entry 5). -/
def Obligations.AnswerCompletesPendingTick : Prop :=
  ∀ (now status : BitVec 16) (s : State) (c : Collaborator), s.st = 0b001#3 ∨ s.st = 0b100#3 → s.pending = some now →
    s.host.head? ≠ some .reset → s.collab.poll s.reads = (some status, c) →
    (status.getLsbD 13 = false → step s =
      .next { s with st := 0b000#3, pending := none, rsp := some 0x0001#16, collab := c } ∧
      stepResponse s = some 0x0001#16) ∧
    (status.getLsbD 13 = true → step s = .next { s with pending := none, rsp := some 0x0000#16, collab := c } ∧
      stepResponse s = some 0x0000#16)

/-- 41_tracker.md R122: the transition table of this hardware, and that a TICK that completes follows it, with the busy flag of its
own StatusRead where it makes one, and never writes `ts`. -/
def Obligations.TickFollowsTransitionTable : Prop :=
  (∀ (ts now : BitVec 16) (busy : Bool),
    nextSt Config.hardware 0b000#3 ts busy now = 0b000#3 ∧
    nextSt Config.hardware 0b001#3 ts true now = 0b001#3 ∧
    nextSt Config.hardware 0b001#3 ts false now = 0b000#3 ∧
    nextSt Config.hardware 0b010#3 ts busy now = 0b011#3 ∧
    ((now - ts).toNat ≤ Config.hardware.settleDelay.val → nextSt Config.hardware 0b011#3 ts busy now = 0b011#3) ∧
    (Config.hardware.settleDelay.val < (now - ts).toNat → nextSt Config.hardware 0b011#3 ts busy now = 0b100#3) ∧
    nextSt Config.hardware 0b100#3 ts true now = 0b100#3 ∧
    nextSt Config.hardware 0b100#3 ts false now = 0b000#3 ∧
    nextSt Config.hardware 0b101#3 ts busy now = 0b000#3 ∧
    nextSt Config.hardware 0b110#3 ts busy now = 0b000#3 ∧
    nextSt Config.hardware 0b111#3 ts busy now = 0b000#3) ∧
  ∀ (rsv : BitVec 4) (dec : BitVec 8) (now : BitVec 16) (s t : State), exec (.tick rsv dec now) s = .next t →
    t.ts = s.ts ∧ (s.pending = none → t.pending = none → ∃ busy : Bool,
      t.st = nextSt Config.hardware s.st s.ts busy now ∧
      (t.reads ≠ s.reads → ∃ status c, s.collab.poll (s.reads + 1) = (some status, c) ∧ busy = status.getLsbD 13))

/-- 41_tracker.md R123, 10_state.md R32: the response of a TICK that completes is 1 exactly where the state after it is Idle. -/
def Obligations.TickAnswersIdleIndication : Prop :=
  ∀ (rsv : BitVec 4) (dec : BitVec 8) (now : BitVec 16) (s t : State), s.pending = none →
    exec (.tick rsv dec now) s = .next t → t.pending = none →
    t.rsp = some (if t.st = 0b000#3 then 0x0001#16 else 0x0000#16)

/-- 41_tracker.md R132, 20_memory.md R42: a TICK reads the status once where it starts in Start or PollingBusy, also once in the
settled WaitingSettle case with SETTLE_FALLTHROUGH, and never otherwise; no other command reads it. -/
def Obligations.OnlyTickReadsAndAtMostOnce : Prop :=
  (∀ (p : Config.Params) (now : BitVec 16) (s : State),
    (s.st = 0b001#3 ∨ s.st = 0b100#3 ∨
      (s.st = 0b011#3 ∧ p.settleFallthrough = true ∧ p.settleDelay.val < (now - s.ts).toNat) →
      (tickWith p now s).reads = s.reads + 1) ∧
    (¬ (s.st = 0b001#3 ∨ s.st = 0b100#3 ∨
      (s.st = 0b011#3 ∧ p.settleFallthrough = true ∧ p.settleDelay.val < (now - s.ts).toNat)) →
      (tickWith p now s).reads = s.reads)) ∧
  (∀ (rsv : BitVec 4) (dec : BitVec 8) (now : BitVec 16) (s : State),
    exec (.tick rsv dec now) s = .next (tickWith Config.hardware now s)) ∧
  ∀ (i : Instr) (s t : State), opOf i ≠ 0x4#4 → exec i s = .next t → t.reads = s.reads

/-- 41_tracker.md R133: with SETTLE_FALLTHROUGH the TICK that leaves WaitingSettle also polls the busy flag, once. The variant is not
part of this hardware. -/
def Obligations.FallthroughVariantPolls : Prop :=
  ∀ (p : Config.Params) (now status : BitVec 16) (s : State) (c : Collaborator), p.settleFallthrough = true →
    s.st = 0b011#3 → s.pending = none → p.settleDelay.val < (now - s.ts).toNat →
    s.collab.poll (s.reads + 1) = (some status, c) →
    (status.getLsbD p.busyBit.val = false → tickWith p now s =
      { s with st := 0b000#3, rsp := some 0x0001#16, collab := c, reads := s.reads + 1 }) ∧
    (status.getLsbD p.busyBit.val = true → tickWith p now s =
      { s with st := 0b100#3, rsp := some 0x0000#16, collab := c, reads := s.reads + 1 })

/-- 41_tracker.md R134: outside WaitingSettle the `now` operand changes nothing but what a pending TICK remembers, and no answer to
a pending TICK depends on that; of a status word only bit 13 counts. -/
def Obligations.NowAndOtherStatusBitsIgnored : Prop :=
  (∀ (rsv : BitVec 4) (dec : BitVec 8) (a b : BitVec 16) (s t u : State), s.st ≠ 0b011#3 → s.pending = none →
    exec (.tick rsv dec a) s = .next t → exec (.tick rsv dec b) s = .next u →
    u = { t with pending := u.pending } ∧ (t.pending = none ↔ u.pending = none)) ∧
  (∀ (a b : BitVec 16) (s t u : State), s.st ≠ 0b011#3 → s.host.head? ≠ some .reset →
    step { s with pending := some a } = .next t → step { s with pending := some b } = .next u →
    u = { t with pending := u.pending } ∧ (t.pending = none ↔ u.pending = none)) ∧
  (∀ (rsv : BitVec 4) (dec : BitVec 8) (now : BitVec 16) (s : State) (c : Collaborator) (x y : BitVec 16),
    x.getLsbD 13 = y.getLsbD 13 → s.st = 0b001#3 ∨ s.st = 0b100#3 →
    exec (.tick rsv dec now) { s with collab := .word x c } = exec (.tick rsv dec now) { s with collab := .word y c })

/-- 10_state.md R23: `ts` changes only where an ARM is accepted, to its operand, and at reset. -/
def Obligations.OnlyArmAndResetWriteTimestamp : Prop :=
  ∀ s t : State, step s = .next t →
    t.ts = s.ts ∨ (∃ w, nextEvent s = .accept w ∧ isArm w ∧ t.ts = opndField w) ∨ (nextEvent s = .reset ∧ t.ts = 0x0000#16)

/-- 10_state.md R36: two machines that differ in a timestamp no TICK can read yet give the same responses and stay so; the reset
state is one of them whatever its timestamp is. -/
def Obligations.UnreadTimestampIsUnobservable : Prop :=
  (∀ s t s' : State, sameButUnreadTs s t → step s = .next s' →
    ∃ t', step t = .next t' ∧ sameButUnreadTs s' t' ∧ stepResponse t = stepResponse s) ∧
  ∀ ts : BitVec 16, sameButUnreadTs State.reset { State.reset with ts := ts }

/-- 41_tracker.md R138: Idle is left only through ARM or reset, and each other state is entered only as the rule says. -/
def Obligations.AbsorptionAndReachability : Prop :=
  (∀ (rsv : BitVec 4) (dec : BitVec 8) (now : BitVec 16) (s t : State), s.st = 0b000#3 →
    exec (.tick rsv dec now) s = .next t → t.st = 0b000#3) ∧
  ∀ s t : State, step s = .next t → t.st ≠ s.st →
    (s.st = 0b000#3 → nextEvent s = .reset ∨ ∃ w, nextEvent s = .accept w ∧ isArm w) ∧
    (t.st = 0b001#3 → nextEvent s = .reset) ∧
    (t.st = 0b010#3 → ∃ w, nextEvent s = .accept w ∧ isArm w) ∧
    (t.st = 0b011#3 → s.st = 0b010#3) ∧
    (t.st = 0b100#3 → s.st = 0b011#3)

/-- 10_state.md R22, 20_memory.md R48: no step writes an unrecognized encoding, leaves a TICK pending in a state that reads nothing, or
gives a response while a TICK is pending. -/
def Obligations.EveryStepKeepsInvariant : Prop := ∀ s t : State, TrackerInv s → step s = .next t → TrackerInv t

/-- The invariant holds after reset (10_state.md R35). -/
def Obligations.InvariantHoldsAtReset : Prop := TrackerInv State.reset

/-- 41_tracker.md R136: a step from WaitingSettle to PollingBusy is a TICK whose `now` exceeds the timestamp by more than SETTLE_DELAY,
and after an ARM, while the host issues TICKs, whatever it does after them, such a TICK is accepted before the step that makes the
first StatusRead and by the step that leaves WaitingSettle (for the first, take the least `n` with a read). -/
def Obligations.SettleGuarantee : Prop :=
  (∀ s t : State, TrackerInv s → step s = .next t → s.st = 0b011#3 → t.st = 0b100#3 →
    ∃ w, nextEvent s = .accept w ∧ isTick w ∧ Config.hardware.settleDelay.val < (opndField w - s.ts).toNat ∧
      t.reads = s.reads) ∧
  ∀ (n : Nat) (ws : List CmdWord) (rest : List HostEvent) (s t : State), s.st = 0b010#3 → s.pending = none →
    s.host = commands ws ++ rest → n ≤ ws.length → (∀ w ∈ ws, isTick w) → run n s = .next t →
    (t.reads ≠ s.reads → ∃ w ∈ ws.take (n - 1), Config.hardware.settleDelay.val < (opndField w - s.ts).toNat) ∧
    (t.st ≠ 0b010#3 → t.st ≠ 0b011#3 → ∃ w ∈ ws.take n, Config.hardware.settleDelay.val < (opndField w - s.ts).toNat)

/-- 41_tracker.md R136, 70_reset_and_hazards.md R187: for true times of one millisecond counter the block never takes the settle
delay for over when it is not, and takes it for over exactly then while fewer than 65536 ms have passed. -/
def Obligations.SettleTestNeverEarly : Prop :=
  ∀ (p : Config.Params) (armed later : Nat), armed ≤ later →
    ((elapsed (BitVec.ofNat 16 later) (BitVec.ofNat 16 armed)).toNat = (later - armed) % 65536) ∧
    (settled p (BitVec.ofNat 16 armed) (BitVec.ofNat 16 later) = true → p.settleDelay.val < later - armed) ∧
    (later - armed < 65536 →
      (settled p (BitVec.ofNat 16 armed) (BitVec.ofNat 16 later) = true ↔ p.settleDelay.val < later - armed))

/-- 70_reset_and_hazards.md R192: a run's port events are commands each with its own StatusRead and response, one after the other,
and the run has not ended while the last of them waits; what its end shows is `st`, `ts`, the responses and the StatusRead events.
That the host's list is used up at the end of a run, and that a wait is steps of its own, is the model's choice (log entries 2
and 5). -/
def Obligations.EndOfRun : Prop :=
  (∀ (n : Nat) (s t : State), run n s = .next t →
    s.host = (events n s).filterMap hostEvent? ++ t.host ∧
    responses n s = (events n s).filterMap response? ∧
    t.reads = s.reads + (events n s).count .statRequest ∧
    (s.pending = none → ∃ (done : List (List PortEvent)) (last : List PortEvent), events n s = done.flatten ++ last ∧
      (∀ es ∈ done, isCompleted es ∨ isReset es) ∧ (t.pending = none → last = []) ∧ (t.pending ≠ none → isWaiting last))) ∧
  ∀ (n : Nat) (s : State) (e : EndState), endState n s = some e ↔
    ∃ t, run n s = .next t ∧ t.host = [] ∧ t.pending = none ∧ e = ⟨t.st, t.ts, (events n s).filter observable⟩

/-- 41_tracker.md R137: after an ARM the first two TICKs return 0, and the third returns 1 exactly where the second was late enough
and the third reads busy = 0. -/
def Obligations.MinimumTickCount : Prop :=
  ∀ (w₁ w₂ w₃ : CmdWord) (rest : List HostEvent) (s : State), s.st = 0b010#3 → s.pending = none →
    s.host = .command w₁ :: .command w₂ :: .command w₃ :: rest → isTick w₁ → isTick w₂ → isTick w₃ →
    responses 2 s = [0x0000#16, 0x0000#16] ∧
    (responses 3 s = [0x0000#16, 0x0000#16, 0x0001#16] ↔
      Config.hardware.settleDelay.val < (opndField w₂ - s.ts).toNat ∧
      ∃ status c, s.collab.poll (s.reads + 1) = (some status, c) ∧ status.getLsbD 13 = false)

/-- 41_tracker.md R139: from Start, with busy = 1 for the first N reads and then busy = 0, the TICKs return N zeros and then 1, and each
performs exactly one StatusRead. -/
def Obligations.PollingFromStart : Prop :=
  ∀ (ws : List CmdWord) (busy : List (BitVec 16)) (last : BitVec 16) (c : Collaborator) (rest : List HostEvent) (s : State),
    s.st = 0b001#3 → s.pending = none → s.host = commands ws ++ rest → s.collab = Collaborator.answers (busy ++ [last]) c →
    ws.length = busy.length + 1 → (∀ w ∈ ws, isTick w) → (∀ b ∈ busy, b.getLsbD 13 = true) → last.getLsbD 13 = false →
    responses ws.length s = List.replicate busy.length 0x0000#16 ++ [0x0001#16] ∧
    ∀ k ≤ ws.length, ∃ t, run k s = .next t ∧ t.reads = s.reads + k

/-- 41_tracker.md R140: from any state, where the host keeps issuing TICKs, one of them after the first is late enough, enough of
them follow, and the collaborator answers busy = 0 after finitely many busy reads, the tracker ends in Idle. -/
def Obligations.FairHostReachesIdle : Prop :=
  ∀ (first late : CmdWord) (mid after : List CmdWord) (busy : List (BitVec 16)) (last : BitVec 16) (c : Collaborator)
    (rest : List HostEvent) (s : State), s.pending = none →
    s.host = commands (first :: mid ++ late :: after) ++ rest → (∀ w ∈ first :: mid ++ late :: after, isTick w) →
    Config.hardware.settleDelay.val < (opndField late - s.ts).toNat → busy.length < after.length →
    s.collab = Collaborator.answers (busy ++ [last]) c → (∀ b ∈ busy, b.getLsbD 13 = true) → last.getLsbD 13 = false →
    ∃ t, run (first :: mid ++ late :: after).length s = .next t ∧ t.st = 0b000#3 ∧ t.rsp = some 0x0001#16
end

