-- ==== Sys2Proof/Laws/Decode.lean ====
section
/-! SUPPORT. The fields of the words the encoder writes (30_encoding.md R60). -/

namespace Sys2Proof

section
variable (op rsv : BitVec 4) (dec : BitVec 8) (opnd : BitVec 16) (rest : BitVec 28)

theorem getLsbD_commandWord (i : Nat) :
    (commandWord op rsv dec opnd).getLsbD i =
      if i < 16 then opnd.getLsbD i else if i < 24 then dec.getLsbD (i - 16)
      else if i < 28 then rsv.getLsbD (i - 24) else op.getLsbD (i - 28) := by
  show (op ++ rsv ++ dec ++ opnd : BitVec (4 + 4 + 8 + 16)).getLsbD i = _
  simp only [BitVec.getLsbD_append]
  split_ifs <;> first | rfl | omega

theorem getLsbD_reservedWord (i : Nat) :
    (reservedWord op rest).getLsbD i = if i < 28 then rest.getLsbD i else op.getLsbD (i - 28) := by
  show (op ++ rest : BitVec (4 + 28)).getLsbD i = _
  simp only [BitVec.getLsbD_append]

@[simp] theorem opField_commandWord : opField (commandWord op rsv dec opnd) = op := by
  refine BitVec.eq_of_getLsbD_eq fun i hi => ?_
  rw [opField, BitVec.getLsbD_extractLsb', getLsbD_commandWord, if_neg (by omega), if_neg (by omega), if_neg (by omega),
    Nat.add_sub_cancel_left, decide_eq_true hi, Bool.true_and]

@[simp] theorem rsvField_commandWord : rsvField (commandWord op rsv dec opnd) = rsv := by
  refine BitVec.eq_of_getLsbD_eq fun i hi => ?_
  rw [rsvField, BitVec.getLsbD_extractLsb', getLsbD_commandWord, if_neg (by omega), if_neg (by omega), if_pos (by omega),
    Nat.add_sub_cancel_left, decide_eq_true hi, Bool.true_and]

@[simp] theorem decField_commandWord : decField (commandWord op rsv dec opnd) = dec := by
  refine BitVec.eq_of_getLsbD_eq fun i hi => ?_
  rw [decField, BitVec.getLsbD_extractLsb', getLsbD_commandWord, if_neg (by omega), if_pos (by omega),
    Nat.add_sub_cancel_left, decide_eq_true hi, Bool.true_and]

@[simp] theorem opndField_commandWord : opndField (commandWord op rsv dec opnd) = opnd := by
  refine BitVec.eq_of_getLsbD_eq fun i hi => ?_
  rw [opndField, BitVec.getLsbD_extractLsb', Nat.zero_add, getLsbD_commandWord, if_pos hi, decide_eq_true hi, Bool.true_and]

@[simp] theorem opField_reservedWord : opField (reservedWord op rest) = op := by
  refine BitVec.eq_of_getLsbD_eq fun i hi => ?_
  rw [opField, BitVec.getLsbD_extractLsb', getLsbD_reservedWord, if_neg (by omega), Nat.add_sub_cancel_left,
    decide_eq_true hi, Bool.true_and]

@[simp] theorem restField_reservedWord : restField (reservedWord op rest) = rest := by
  refine BitVec.eq_of_getLsbD_eq fun i hi => ?_
  rw [restField, BitVec.getLsbD_extractLsb', Nat.zero_add, getLsbD_reservedWord, if_pos hi, decide_eq_true hi, Bool.true_and]

end

/-- The sixteen operation codes a word can carry (30_encoding.md R61). -/
theorem opField_cases (w : CmdWord) :
    opField w = 0x0#4 ∨ opField w = 0x1#4 ∨ opField w = 0x2#4 ∨ opField w = 0x3#4 ∨ opField w = 0x4#4 ∨
    opField w = 0x5#4 ∨ opField w = 0x6#4 ∨ opField w = 0x7#4 ∨ opField w = 0x8#4 ∨ opField w = 0x9#4 ∨
    opField w = 0xA#4 ∨ opField w = 0xB#4 ∨ opField w = 0xC#4 ∨ opField w = 0xD#4 ∨ opField w = 0xE#4 ∨
    opField w = 0xF#4 := by
  generalize opField w = op
  revert op
  decide

end Sys2Proof
end

