-- ==== Sys2Proof/Laws/Ops.lean ====
section
/-! SUPPORT. What each shared operation can do, said once. -/

namespace Sys2Proof.Machine

theorem halfGuard_iff (w : Int) : halfGuard w = true ↔ -16384 < w ∧ w < 16383 := by
  rw [halfGuard, Bool.and_eq_true, decide_eq_true_iff, decide_eq_true_iff]; rfl

theorem fifthGuard_iff (w : Int) : fifthGuard w = true ↔ -6553 < w ∧ w < 6553 := by
  rw [fifthGuard, Bool.and_eq_true, decide_eq_true_iff, decide_eq_true_iff]; rfl

theorem settled_iff (p : Config.Params) (ts now : BitVec 16) :
    settled p ts now = true ↔ p.settleDelay.val < (now - ts).toNat := by
  rw [settled, decide_eq_true_iff]; rfl

/-- Preferred steps spend budget and stop where the guard fails or the budget is spent. -/
theorem preferSteps_spec (guard : Int → Bool) (f : Int → Int) (p : Nat) (w : Int) :
    (preferSteps guard f p w).2 ≤ p ∧
      ((preferSteps guard f p w).2 = 0 ∨ guard (preferSteps guard f p w).1 = false) := by
  induction p generalizing w with
  | zero => exact ⟨Nat.le_refl 0, .inl rfl⟩
  | succ n ih =>
    by_cases h : guard w = true
    · simp only [preferSteps, h, if_true]
      exact ⟨(ih (f w)).1.trans (Nat.le_succ n), (ih (f w)).2⟩
    · simp only [Bool.not_eq_true] at h
      simp [preferSteps, h]

/-- A property the guarded preferred step keeps holds of the value the preferred steps end in. -/
theorem preferSteps_keeps (P : Int → Prop) (guard : Int → Bool) (f : Int → Int)
    (hf : ∀ w, P w → guard w = true → P (f w)) (p : Nat) (w : Int) (hw : P w) :
    P (preferSteps guard f p w).1 := by
  induction p generalizing w with
  | zero => exact hw
  | succ n ih =>
    by_cases h : guard w = true
    · simpa only [preferSteps, h, if_true] using ih (f w) (hf w hw h)
    · simp only [Bool.not_eq_true] at h
      simpa [preferSteps, h] using hw

/-- A property both steps keep holds of the value the rounds end in. -/
theorem rescale_keeps (P : Int → Prop) (guard : Int → Bool) (prefer fall : Int → Int)
    (hp : ∀ w, P w → guard w = true → P (prefer w)) (hf : ∀ w, P w → P (fall w))
    (q p : Nat) (w : Int) (hw : P w) : P (rescale guard prefer fall q p w).1 := by
  induction q generalizing p w with
  | zero => exact preferSteps_keeps P guard prefer hp p w hw
  | succ n ih => exact ih _ _ (hf _ (preferSteps_keeps P guard prefer hp p w hw))

/-- The preferred budget left over is none but where the last round's guard fails. -/
theorem rescale_left (guard : Int → Bool) (prefer fall : Int → Int) (q p : Nat) (w : Int) :
    (rescale guard prefer fall q p w).2 = 0 ∨ guard (rescale guard prefer fall q p w).1 = false := by
  induction q generalizing p w with
  | zero => exact (preferSteps_spec guard prefer p w).2
  | succ n ih => exact ih _ _

theorem finishRounds_done {r : Int × Nat} (h : r.2 = 0) : finishRounds r = r.1 := if_pos h

theorem finishRounds_stalled {r : Int × Nat} (h : r.2 ≠ 0) : finishRounds r = saturateBySign r.1 := if_neg h

@[simp] theorem poll_free (n : Nat) : Collaborator.poll n .free = (some (Config.statusWord n), .free) := rfl
@[simp] theorem poll_silent (n : Nat) : Collaborator.poll n .silent = (none, .silent) := rfl
@[simp] theorem poll_word (n : Nat) (w : BitVec 16) (c : Collaborator) :
    Collaborator.poll n (.word w c) = (some w, c) := rfl
@[simp] theorem poll_late (n : Nat) (c : Collaborator) : Collaborator.poll n (.late c) = (none, c) := rfl

@[simp] theorem discard_free : Collaborator.discard .free = .free := rfl
@[simp] theorem discard_silent : Collaborator.discard .silent = .silent := rfl
@[simp] theorem discard_word (w : BitVec 16) (c : Collaborator) : Collaborator.discard (.word w c) = c := rfl
@[simp] theorem discard_late (c : Collaborator) : Collaborator.discard (.late c) = c.discard := rfl

@[simp] theorem answers_nil (c : Collaborator) : Collaborator.answers [] c = c := rfl
@[simp] theorem answers_cons (w : BitVec 16) (ws : List (BitVec 16)) (c : Collaborator) :
    Collaborator.answers (w :: ws) c = .word w (Collaborator.answers ws c) := rfl

end Sys2Proof.Machine
end

