-- ==== Sys2Proof/Laws/PerInstr.lean ====
section
/-! SUPPORT. The family OpField: the OP field of a command's word is the operation code of spec/opcode_table.json
(30_encoding.md R60, R61), one lemma per constructor. -/

namespace Sys2Proof.Laws.OpField

/-- The word of the command carries the command's operation code in bits 31:28. -/
def Statement (i : Instr) : Prop := opField (encode i) = opOf i

theorem dec2iq (rsv : BitVec 4) (decimals : BitVec 8) (value : BitVec 16) : Statement (.dec2iq rsv decimals value) := by simp [Statement, encode, opOf]
theorem iq2dec (rsv : BitVec 4) (decimals : BitVec 8) (value : BitVec 16) : Statement (.iq2dec rsv decimals value) := by simp [Statement, encode, opOf]
theorem arm (rsv : BitVec 4) (dec : BitVec 8) (now : BitVec 16) : Statement (.arm rsv dec now) := by simp [Statement, encode, opOf]
theorem tick (rsv : BitVec 4) (dec : BitVec 8) (now : BitVec 16) : Statement (.tick rsv dec now) := by simp [Statement, encode, opOf]
theorem reserved0 (rest : BitVec 28) : Statement (.reserved0 rest) := by simp [Statement, encode, opOf]
theorem reserved5 (rest : BitVec 28) : Statement (.reserved5 rest) := by simp [Statement, encode, opOf]
theorem reserved6 (rest : BitVec 28) : Statement (.reserved6 rest) := by simp [Statement, encode, opOf]
theorem reserved7 (rest : BitVec 28) : Statement (.reserved7 rest) := by simp [Statement, encode, opOf]
theorem reserved8 (rest : BitVec 28) : Statement (.reserved8 rest) := by simp [Statement, encode, opOf]
theorem reserved9 (rest : BitVec 28) : Statement (.reserved9 rest) := by simp [Statement, encode, opOf]
theorem reservedA (rest : BitVec 28) : Statement (.reservedA rest) := by simp [Statement, encode, opOf]
theorem reservedB (rest : BitVec 28) : Statement (.reservedB rest) := by simp [Statement, encode, opOf]
theorem reservedC (rest : BitVec 28) : Statement (.reservedC rest) := by simp [Statement, encode, opOf]
theorem reservedD (rest : BitVec 28) : Statement (.reservedD rest) := by simp [Statement, encode, opOf]
theorem reservedE (rest : BitVec 28) : Statement (.reservedE rest) := by simp [Statement, encode, opOf]
theorem reservedF (rest : BitVec 28) : Statement (.reservedF rest) := by simp [Statement, encode, opOf]

end Sys2Proof.Laws.OpField
end

