-- ==== Sys2Proof/Laws/State.lean ====
section
/-! SUPPORT. One lemma per field per update of the state, so that no later proof unfolds a record update. -/

namespace Sys2Proof.Machine

@[simp] theorem respond_st (r : BitVec 16) (s : State) : (respond r s).st = s.st := rfl
@[simp] theorem respond_ts (r : BitVec 16) (s : State) : (respond r s).ts = s.ts := rfl
@[simp] theorem respond_pending (r : BitVec 16) (s : State) : (respond r s).pending = s.pending := rfl
@[simp] theorem respond_rsp (r : BitVec 16) (s : State) : (respond r s).rsp = some r := rfl
@[simp] theorem respond_host (r : BitVec 16) (s : State) : (respond r s).host = s.host := rfl
@[simp] theorem respond_collab (r : BitVec 16) (s : State) : (respond r s).collab = s.collab := rfl
@[simp] theorem respond_reads (r : BitVec 16) (s : State) : (respond r s).reads = s.reads := rfl

@[simp] theorem popHost_st (s : State) : (popHost s).st = s.st := rfl
@[simp] theorem popHost_ts (s : State) : (popHost s).ts = s.ts := rfl
@[simp] theorem popHost_pending (s : State) : (popHost s).pending = s.pending := rfl
@[simp] theorem popHost_rsp (s : State) : (popHost s).rsp = s.rsp := rfl
@[simp] theorem popHost_host (s : State) : (popHost s).host = s.host.tail := rfl
@[simp] theorem popHost_collab (s : State) : (popHost s).collab = s.collab := rfl
@[simp] theorem popHost_reads (s : State) : (popHost s).reads = s.reads := rfl

@[simp] theorem issueRead_st (now : BitVec 16) (s : State) : (issueRead now s).st = s.st := rfl
@[simp] theorem issueRead_ts (now : BitVec 16) (s : State) : (issueRead now s).ts = s.ts := rfl
@[simp] theorem issueRead_pending (now : BitVec 16) (s : State) : (issueRead now s).pending = some now := rfl
@[simp] theorem issueRead_rsp (now : BitVec 16) (s : State) : (issueRead now s).rsp = none := rfl
@[simp] theorem issueRead_host (now : BitVec 16) (s : State) : (issueRead now s).host = s.host := rfl
@[simp] theorem issueRead_collab (now : BitVec 16) (s : State) : (issueRead now s).collab = s.collab := rfl
@[simp] theorem issueRead_reads (now : BitVec 16) (s : State) : (issueRead now s).reads = s.reads + 1 := rfl

@[simp] theorem takeReset_st (s : State) : (takeReset s).st = stStart := rfl
@[simp] theorem takeReset_ts (s : State) : (takeReset s).ts = 0x0000#16 := rfl
@[simp] theorem takeReset_pending (s : State) : (takeReset s).pending = none := rfl
@[simp] theorem takeReset_rsp (s : State) : (takeReset s).rsp = none := rfl
@[simp] theorem takeReset_host (s : State) : (takeReset s).host = s.host := rfl
@[simp] theorem takeReset_collab (s : State) : (takeReset s).collab = if s.pending.isSome then s.collab.discard else s.collab := rfl
@[simp] theorem takeReset_reads (s : State) : (takeReset s).reads = s.reads := rfl

@[simp] theorem offerFirst_st (w : BitVec 32) (s : State) : (offerFirst w s).st = s.st := rfl
@[simp] theorem offerFirst_ts (w : BitVec 32) (s : State) : (offerFirst w s).ts = s.ts := rfl
@[simp] theorem offerFirst_pending (w : BitVec 32) (s : State) : (offerFirst w s).pending = none := rfl
@[simp] theorem offerFirst_rsp (w : BitVec 32) (s : State) : (offerFirst w s).rsp = s.rsp := rfl
@[simp] theorem offerFirst_host (w : BitVec 32) (s : State) : (offerFirst w s).host = .command w :: s.host := rfl
@[simp] theorem offerFirst_collab (w : BitVec 32) (s : State) : (offerFirst w s).collab = s.collab := rfl
@[simp] theorem offerFirst_reads (w : BitVec 32) (s : State) : (offerFirst w s).reads = s.reads := rfl

@[simp] theorem noOperation_st (s : State) : (noOperation s).st = s.st := rfl
@[simp] theorem noOperation_ts (s : State) : (noOperation s).ts = s.ts := rfl
@[simp] theorem noOperation_pending (s : State) : (noOperation s).pending = s.pending := rfl
@[simp] theorem noOperation_rsp (s : State) : (noOperation s).rsp = some 0x0000#16 := rfl
@[simp] theorem noOperation_host (s : State) : (noOperation s).host = s.host := rfl
@[simp] theorem noOperation_collab (s : State) : (noOperation s).collab = s.collab := rfl
@[simp] theorem noOperation_reads (s : State) : (noOperation s).reads = s.reads := rfl

@[simp] theorem completeTick_st (p : Config.Params) (now : BitVec 16) (busy : Bool) (s : State) : (completeTick p now busy s).st = nextSt p s.st s.ts busy now := rfl
@[simp] theorem completeTick_ts (p : Config.Params) (now : BitVec 16) (busy : Bool) (s : State) : (completeTick p now busy s).ts = s.ts := rfl
@[simp] theorem completeTick_pending (p : Config.Params) (now : BitVec 16) (busy : Bool) (s : State) : (completeTick p now busy s).pending = s.pending := rfl
@[simp] theorem completeTick_rsp (p : Config.Params) (now : BitVec 16) (busy : Bool) (s : State) : (completeTick p now busy s).rsp = some (idleWord (nextSt p s.st s.ts busy now)) := rfl
@[simp] theorem completeTick_host (p : Config.Params) (now : BitVec 16) (busy : Bool) (s : State) : (completeTick p now busy s).host = s.host := rfl
@[simp] theorem completeTick_collab (p : Config.Params) (now : BitVec 16) (busy : Bool) (s : State) : (completeTick p now busy s).collab = s.collab := rfl
@[simp] theorem completeTick_reads (p : Config.Params) (now : BitVec 16) (busy : Bool) (s : State) : (completeTick p now busy s).reads = s.reads := rfl

end Sys2Proof.Machine
end

