-- ==== Sys2Proof/Laws/Tracker.lean ====
section
/-! SUPPORT. What a TICK can do, said once: the transition by state, the wait for an answer, the whole command. -/

namespace Sys2Proof.Machine

@[simp] theorem phaseOf_idle : phaseOf stIdle = .idle := rfl
@[simp] theorem phaseOf_start : phaseOf stStart = .start := rfl
@[simp] theorem phaseOf_writeIssued : phaseOf stWriteIssued = .writeIssued := rfl
@[simp] theorem phaseOf_waitingSettle : phaseOf stWaitingSettle = .waitingSettle := rfl
@[simp] theorem phaseOf_pollingBusy : phaseOf stPollingBusy = .pollingBusy := rfl

/-- The encodings as literals (10_state.md R21). -/
theorem st_literals :
    stIdle = 0#3 ∧ stStart = 1#3 ∧ stWriteIssued = 2#3 ∧ stWaitingSettle = 3#3 ∧ stPollingBusy = 4#3 :=
  ⟨rfl, rfl, rfl, rfl, rfl⟩

/-- A three-bit register holds one of the five states or an unrecognized encoding. -/
theorem st_cases (st : BitVec 3) :
    st = stIdle ∨ st = stStart ∨ st = stWriteIssued ∨ st = stWaitingSettle ∨ st = stPollingBusy ∨
      phaseOf st = .unrecognized := by
  revert st; decide

@[simp] theorem idleWord_idle : idleWord stIdle = 0x0001#16 := rfl
@[simp] theorem idleWord_start : idleWord stStart = 0x0000#16 := rfl
@[simp] theorem idleWord_writeIssued : idleWord stWriteIssued = 0x0000#16 := rfl
@[simp] theorem idleWord_waitingSettle : idleWord stWaitingSettle = 0x0000#16 := rfl
@[simp] theorem idleWord_pollingBusy : idleWord stPollingBusy = 0x0000#16 := rfl

section
variable (p : Config.Params) (ts now : BitVec 16) (busy : Bool)

@[simp] theorem readsStatus_idle : readsStatus p stIdle ts now = false := rfl
@[simp] theorem readsStatus_start : readsStatus p stStart ts now = true := rfl
@[simp] theorem readsStatus_writeIssued : readsStatus p stWriteIssued ts now = false := rfl
@[simp] theorem readsStatus_waitingSettle :
    readsStatus p stWaitingSettle ts now = (p.settleFallthrough && settled p ts now) := rfl
@[simp] theorem readsStatus_pollingBusy : readsStatus p stPollingBusy ts now = true := rfl
theorem readsStatus_unrecognized {st : BitVec 3} (h : phaseOf st = .unrecognized) :
    readsStatus p st ts now = false := by simp [readsStatus, h]

@[simp] theorem nextSt_idle : nextSt p stIdle ts busy now = stIdle := rfl
@[simp] theorem nextSt_start : nextSt p stStart ts busy now = if busy then stStart else stIdle := rfl
@[simp] theorem nextSt_writeIssued : nextSt p stWriteIssued ts busy now = stWaitingSettle := rfl
@[simp] theorem nextSt_waitingSettle :
    nextSt p stWaitingSettle ts busy now =
      if settled p ts now then (if p.settleFallthrough && !busy then stIdle else stPollingBusy) else stWaitingSettle := rfl
@[simp] theorem nextSt_pollingBusy : nextSt p stPollingBusy ts busy now = if busy then stPollingBusy else stIdle := rfl
theorem nextSt_unrecognized {st : BitVec 3} (h : phaseOf st = .unrecognized) :
    nextSt p st ts busy now = stIdle := by simp [nextSt, h]

end

@[simp] theorem hardware_fallthrough : Config.hardware.settleFallthrough = false := rfl
@[simp] theorem hardware_busyBit : Config.hardware.busyBit = 13 := rfl
@[simp] theorem hardware_satZero : Config.hardware.satZero = .max := rfl
@[simp] theorem hardware_settleDelay : Config.hardware.settleDelay = Config.settleDelay := rfl

@[simp] theorem busyFlag_hardware (status : BitVec 16) : busyFlag Config.hardware status = status.getLsbD 13 := rfl

/-- An answered wait completes the TICK. -/
theorem awaitAnswer_answered {p : Config.Params} {now status : BitVec 16} {s : State} {rest : Collaborator}
    (h : s.collab.poll s.reads = (some status, rest)) :
    awaitAnswer p now s = completeTick p now (busyFlag p status) { s with pending := none, collab := rest } := by
  simp [awaitAnswer, h]

/-- An unanswered wait goes on. -/
theorem awaitAnswer_unanswered {p : Config.Params} {now : BitVec 16} {s : State} {rest : Collaborator}
    (h : s.collab.poll s.reads = (none, rest)) : awaitAnswer p now s = { s with collab := rest } := by
  simp [awaitAnswer, h]

/-- Everything a wait can do. -/
theorem awaitAnswer_cases (p : Config.Params) (now : BitVec 16) (s : State) :
    (∃ status rest, s.collab.poll s.reads = (some status, rest) ∧
      awaitAnswer p now s = completeTick p now (busyFlag p status) { s with pending := none, collab := rest }) ∨
    (∃ rest, s.collab.poll s.reads = (none, rest) ∧ awaitAnswer p now s = { s with collab := rest }) := by
  rcases h : s.collab.poll s.reads with ⟨_ | status, rest⟩
  · exact .inr ⟨rest, rfl, awaitAnswer_unanswered h⟩
  · exact .inl ⟨status, rest, rfl, awaitAnswer_answered h⟩

/-- Everything a TICK can do: no read; a read answered at once; a read left in flight. -/
theorem tickWith_cases (p : Config.Params) (now : BitVec 16) (s : State) :
    (readsStatus p s.st s.ts now = false ∧ tickWith p now s = completeTick p now false s) ∨
    (readsStatus p s.st s.ts now = true ∧ ∃ status rest, s.collab.poll (s.reads + 1) = (some status, rest) ∧
      tickWith p now s =
        completeTick p now (busyFlag p status) { issueRead now s with pending := none, collab := rest }) ∨
    (readsStatus p s.st s.ts now = true ∧ ∃ rest, s.collab.poll (s.reads + 1) = (none, rest) ∧
      tickWith p now s = { issueRead now s with collab := rest }) := by
  by_cases h : readsStatus p s.st s.ts now = true
  · simp only [tickWith, h, if_true, true_and, Bool.true_eq_false, false_and, false_or]
    exact awaitAnswer_cases p now (issueRead now s)
  · simp only [Bool.not_eq_true] at h
    exact .inl ⟨h, by simp [tickWith, h]⟩

end Sys2Proof.Machine
end

