-- ==== Sys2Proof/Laws/Step.lean ====
section
/-! SUPPORT. What a step can do, said once. -/

namespace Sys2Proof.Machine

theorem nextEvent_reset {s : State} {rest : List HostEvent} (h : s.host = .reset :: rest) : nextEvent s = .reset := by
  simp [nextEvent, h]

theorem nextEvent_accept {s : State} {w : BitVec 32} {rest : List HostEvent} (h : s.host = .command w :: rest)
    (hp : s.pending = none) : nextEvent s = .accept w := by
  simp [nextEvent, h, hp]

theorem nextEvent_quiet {s : State} (h : s.host = []) (hp : s.pending = none) : nextEvent s = .quiet := by
  simp [nextEvent, h, hp]

theorem nextEvent_awaiting {s : State} {now : BitVec 16} (h : s.host.head? ≠ some .reset) (hp : s.pending = some now) :
    nextEvent s = .awaiting now := by
  rcases hs : s.host with _ | ⟨_ | _, rest⟩ <;> simp_all [nextEvent]

/-- Everything a step can be: one of the four events, under the conditions the ports give. -/
theorem step_cases (s : State) :
    (∃ rest, s.host = .reset :: rest ∧ nextEvent s = .reset ∧ step s = .next (takeReset (popHost s))) ∨
    (∃ now, s.host.head? ≠ some .reset ∧ s.pending = some now ∧ nextEvent s = .awaiting now ∧
      step s = .next (awaitAnswer Config.hardware now s)) ∨
    (∃ w rest, s.host = .command w :: rest ∧ s.pending = none ∧ nextEvent s = .accept w ∧
      step s = exec (decode w) (popHost s)) ∨
    (s.host = [] ∧ s.pending = none ∧ nextEvent s = .quiet ∧ step s = .next s) := by
  rcases hh : s.host with _ | ⟨_ | _, rest⟩ <;> rcases hp : s.pending with _ | now <;> simp [step, nextEvent, hh, hp]

/-- Everything the command of a word can be: a response that changes nothing else, an ARM, or a TICK. -/
theorem exec_cases (w : CmdWord) (s : State) :
    (opField w ≠ 0x3#4 ∧ opField w ≠ 0x4#4 ∧ ∃ r, exec (decode w) s = .next (respond r s)) ∨
    (opField w = 0x3#4 ∧
      exec (decode w) s = .next (respond 0x0000#16 { s with st := stWriteIssued, ts := opndField w })) ∨
    (opField w = 0x4#4 ∧ exec (decode w) s = .next (tickWith Config.hardware (opndField w) s)) := by
  rcases opField_cases w with k | k | k | k | k | k | k | k | k | k | k | k | k | k | k | k <;> simp only [decode, k]
  case inr.inr.inr.inl => exact .inr (.inl ⟨trivial, rfl⟩)
  case inr.inr.inr.inr.inl => exact .inr (.inr ⟨trivial, rfl⟩)
  all_goals exact .inl ⟨by decide, by decide, _, rfl⟩

end Sys2Proof.Machine

namespace Sys2Proof.Safety

open Sys2Proof.Machine

@[simp] theorem run_zero (s : State) : run 0 s = .next s := rfl

/-- A run takes a step and goes on from the state it leads to. -/
theorem run_succ {n : Nat} {s t : State} (h : step s = .next t) : run (n + 1) s = run n t := by
  simp [run, h]

@[simp] theorem responses_zero (s : State) : responses 0 s = [] := rfl

/-- The responses of a run are the next step's, if it has one, and those of the run from the state it leads to. -/
theorem responses_succ {n : Nat} {s t : State} (h : step s = .next t) :
    responses (n + 1) s = (stepResponse s).toList ++ responses n t := by
  simp [responses, h]

@[simp] theorem events_zero (s : State) : events 0 s = [] := rfl

/-- The port events of a run are the next step's and those of the run from the state it leads to. -/
theorem events_succ {n : Nat} {s t : State} (h : step s = .next t) :
    events (n + 1) s = stepEvents s ++ events n t := by
  simp [events, h]

/-- The port events of a step, each from what decides it. -/
theorem stepEvents_next {s t : State} (h : step s = .next t) :
    stepEvents s = hostPorts (nextEvent s) ++ List.replicate (statRequests s t) .statRequest ++
      (statDelivered s).toList.map .statWord ++ (stepResponse s).toList.map .response := by
  simp [stepEvents, h]

@[simp] theorem hostEvent?_reset : hostEvent? .reset = some .reset := rfl
@[simp] theorem hostEvent?_command (w : BitVec 32) : hostEvent? (.command w) = some (.command w) := rfl
@[simp] theorem hostEvent?_statRequest : hostEvent? .statRequest = none := rfl
@[simp] theorem hostEvent?_statWord (w : BitVec 16) : hostEvent? (.statWord w) = none := rfl
@[simp] theorem hostEvent?_response (r : BitVec 16) : hostEvent? (.response r) = none := rfl

@[simp] theorem response?_reset : response? .reset = none := rfl
@[simp] theorem response?_command (w : BitVec 32) : response? (.command w) = none := rfl
@[simp] theorem response?_statRequest : response? .statRequest = none := rfl
@[simp] theorem response?_statWord (w : BitVec 16) : response? (.statWord w) = none := rfl
@[simp] theorem response?_response (r : BitVec 16) : response? (.response r) = some r := rfl

/-- The response event of a step is the response among its port events. -/
theorem stepEvents_response {s t : State} (h : step s = .next t) :
    (stepEvents s).filterMap response? = (stepResponse s).toList := by
  have host : ∀ e : Event, (hostPorts e).filterMap response? = [] := by intro e; cases e <;> rfl
  have requests : ∀ n, (List.replicate n PortEvent.statRequest).filterMap response? = [] := by
    intro n; simp [List.filterMap_replicate]
  rw [stepEvents_next h]
  simp only [List.filterMap_append, host, requests]
  cases statDelivered s <;> cases stepResponse s <;> rfl

/-- A reset shows itself alone. -/
theorem stepEvents_reset {s : State} {rest : List HostEvent} (h : s.host = .reset :: rest) :
    step s = .next (takeReset (popHost s)) ∧ stepEvents s = [.reset] := by
  have e : step s = .next (takeReset (popHost s)) := by simp [step, nextEvent_reset h]
  exact ⟨e, by simp [stepEvents_next e, statDelivered, stepResponse, statRequests, hostPorts, nextEvent_reset h]⟩

/-- Nothing happens where the host does nothing and nothing is pending. -/
theorem stepEvents_quiet {s : State} (h : s.host = []) (hp : s.pending = none) :
    step s = .next s ∧ stepEvents s = [] := by
  have e : step s = .next s := by simp [step, nextEvent_quiet h hp]
  exact ⟨e, by simp [stepEvents_next e, statDelivered, stepResponse, statRequests, hostPorts, nextEvent_quiet h hp]⟩

/-- A wait that is answered shows the answer and the response and ends; one that is not shows nothing and goes on. -/
theorem stepEvents_awaiting {s : State} {now : BitVec 16} (h : s.host.head? ≠ some .reset) (hp : s.pending = some now) :
    (∃ status rest, s.collab.poll s.reads = (some status, rest) ∧
      step s = .next (completeTick Config.hardware now (busyFlag Config.hardware status) { s with pending := none, collab := rest }) ∧
      stepEvents s = [.statWord status,
        .response (idleWord (nextSt Config.hardware s.st s.ts (busyFlag Config.hardware status) now))]) ∨
    (∃ rest, s.collab.poll s.reads = (none, rest) ∧ step s = .next { s with collab := rest } ∧ stepEvents s = []) := by
  have e : step s = .next (awaitAnswer Config.hardware now s) := by simp [step, nextEvent_awaiting h hp]
  rw [stepEvents_next e]
  simp only [statDelivered, stepResponse, statRequests, hostPorts, nextEvent_awaiting h hp, e]
  rcases awaitAnswer_cases Config.hardware now s with ⟨status, rest, hc, ha⟩ | ⟨rest, hc, ha⟩ <;> rw [ha, hc]
  · exact .inl ⟨status, rest, rfl, rfl, by simp⟩
  · exact .inr ⟨rest, rfl, rfl, by simp [hp]⟩

/-- An accepted command that reads nothing shows itself and its response. A TICK that reads shows itself and the request and, where it
is answered at once, the answer and the response. -/
theorem stepEvents_accept {s : State} {w : CmdWord} {rest : List HostEvent} (h : s.host = .command w :: rest)
    (hp : s.pending = none) :
    (∃ r t, step s = .next t ∧ t.pending = none ∧ t.host = rest ∧ t.reads = s.reads ∧
      stepEvents s = [.command w, .response r]) ∨
    (opField w = 0x4#4 ∧ readsStatus Config.hardware s.st s.ts (opndField w) = true ∧
      ((∃ status c, s.collab.poll (s.reads + 1) = (some status, c) ∧
        step s = .next (completeTick Config.hardware (opndField w) (busyFlag Config.hardware status)
          { issueRead (opndField w) (popHost s) with pending := none, collab := c }) ∧
        stepEvents s = [.command w, .statRequest, .statWord status,
          .response (idleWord (nextSt Config.hardware s.st s.ts (busyFlag Config.hardware status) (opndField w)))]) ∨
      (∃ c, s.collab.poll (s.reads + 1) = (none, c) ∧
        step s = .next { issueRead (opndField w) (popHost s) with collab := c } ∧
        stepEvents s = [.command w, .statRequest]))) := by
  have hn := nextEvent_accept h hp
  have hx : step s = exec (decode w) (popHost s) := by simp [step, hn]
  have quiet : ∀ r t, step s = .next t → t.pending = none → t.rsp = some r → t.reads = s.reads →
      stepEvents s = [.command w, .response r] := by
    intro r t e hq hr hs
    simp [stepEvents_next e, statDelivered, stepResponse, statRequests, hostPorts, hn, e, hq, hr, hs]
  rcases exec_cases w (popHost s) with ⟨_, _, r, e⟩ | ⟨_, e⟩ | ⟨ht, e⟩
  · have e := hx.trans e
    exact .inl ⟨r, _, e, hp, by simp [h], rfl, quiet _ _ e hp rfl rfl⟩
  · have e := hx.trans e
    exact .inl ⟨_, _, e, hp, by simp [h], rfl, quiet _ _ e hp rfl rfl⟩
  · rcases tickWith_cases Config.hardware (opndField w) (popHost s) with ⟨_, e'⟩ | ⟨hr, status, c, hc, e'⟩ | ⟨hr, c, hc, e'⟩ <;>
      rw [e'] at e <;> have e := hx.trans e
    · exact .inl ⟨_, _, e, hp, by simp [h], rfl, quiet _ _ e hp rfl rfl⟩
    · simp only [popHost_collab, popHost_reads] at hc
      exact .inr ⟨ht, by simpa using hr, .inl ⟨status, c, hc, e,
        by simp [stepEvents_next e, statDelivered, stepResponse, statRequests, hostPorts, hn, e, hc]⟩⟩
    · simp only [popHost_collab, popHost_reads] at hc
      exact .inr ⟨ht, by simpa using hr, .inr ⟨c, hc, e,
        by simp [stepEvents_next e, statDelivered, stepResponse, statRequests, hostPorts, hn, e, hc]⟩⟩

end Sys2Proof.Safety
end

