-- ==== Sys2Proof/Tests/Slice0.lean ====
section
/-! SUPPORT. Small tests, with the expected values of spec/95_test_vectors.md, and for each statement with hypotheses a witness that meets
them together. -/

namespace Sys2Proof.Tests

open Sys2Proof.Machine Sys2Proof.Safety

/-- The next state of an outcome. -/
def after : Host.Outcome State Fault Refusal → Option State
  | .next t => some t
  | .fault _ => none
  | .refused _ => none

/-- A small state: the tracker's two registers and the collaborator's script. -/
def tracker (st : BitVec 3) (ts : BitVec 16) (c : Collaborator) : State := { State.reset with st := st, ts := ts, collab := c }

/-- The state with a TICK pending. -/
def pendingTick (st : BitVec 3) (now : BitVec 16) (host : List HostEvent) (c : Collaborator) : State :=
  { State.reset with st := st, pending := some now, host := host, collab := c, reads := 1 }

/-- The parameters of the vectors of 95_test_vectors.md section 5 with D = 10. -/
def delayTen : Config.Params := ⟨10, 13, .max, false⟩

/-! ### Decoding: words written out from 30_encoding.md R60, R61 -/

/-- 0001 0000 00000001 0000000001011111 (R67: `DEC2IQ 95, 1`). -/
theorem test_decode_dec2iq : decode 0b00010000000000010000000001011111#32 = .dec2iq 0 1 95 := by decide

/-- 0010 0000 00000001 0000010011000000 (`IQ2DEC 0x04C0, 1`). -/
theorem test_decode_iq2dec : decode 0b00100000000000010000010011000000#32 = .iq2dec 0 1 0x04C0 := by decide

/-- 0011 1010 10111100 1111111111111010 (95_test_vectors.md section 4: 0x3ABCFFFA, `ARM 65530` with ignored bits). -/
theorem test_decode_arm : decode 0b00111010101111001111111111111010#32 = .arm 0xA 0xBC 65530 := by decide

/-- 0100 1111 00010010 0000000000001011 (0x4F12000B, `TICK 11` with ignored bits). -/
theorem test_decode_tick : decode 0b01001111000100100000000000001011#32 = .tick 0xF 0x12 11 := by decide

/-- The twelve reserved codes (R61, R65). -/
theorem test_decode_reserved :
    decode 0b00000000000000000000000000000000#32 = .reserved0 0 ∧
    decode 0b01010000000000001111111111111111#32 = .reserved5 0x000FFFF ∧
    decode 0b01100000000000000000000000000001#32 = .reserved6 0x0000001 ∧
    decode 0b01111111111111111111111111111111#32 = .reserved7 0xFFFFFFF ∧
    decode 0b10000000000000000000000000000000#32 = .reserved8 0 ∧
    decode 0b10010000000000000000000000000001#32 = .reserved9 0x0000001 ∧
    decode 0b10100000000000000000000000000001#32 = .reservedA 0x0000001 ∧
    decode 0b10110000000000000000000000000001#32 = .reservedB 0x0000001 ∧
    decode 0b11000000000000000000000000000001#32 = .reservedC 0x0000001 ∧
    decode 0b11010000000000000000000000000001#32 = .reservedD 0x0000001 ∧
    decode 0b11100000000000000000000000000001#32 = .reservedE 0x0000001 ∧
    decode 0b11110001001000111010101111001101#32 = .reservedF 0x123ABCD := by decide

/-- The encoder writes the words of 95_test_vectors.md section 4. -/
theorem test_encode_words :
    encode (.dec2iq 0 1 95) = 0x1001005F#32 ∧ encode (.iq2dec 0 1 1216) = 0x200104C0#32 ∧
    encode (.arm 0 0 65530) = 0x3000FFFA#32 ∧ encode (.tick 0 0 5) = 0x40000005#32 ∧
    encode (.reservedF 0x123ABCD) = 0xF123ABCD#32 := by decide

/-- The host's decoder reads a word of the table's numbering, with the bits above its length zero. -/
theorem test_decodeTableWord :
    decodeTableWord 32 0x1001005F = some (.dec2iq 0 1 95) ∧ decodeTableWord 8 0xFFFFFF07 = some (.reserved0 7) ∧
    decodeTableWord 40 0 = none := by decide

/-! ### Checks: an ill-formed term for each, which the check refuses -/

theorem test_wellFormed_refuses :
    (Instr.dec2iq 1 0 0).wellFormed = false ∧ (Instr.iq2dec 8 0 0).wellFormed = false ∧
    (Instr.arm 1 0 0).wellFormed = false ∧ (Instr.arm 0 1 0).wellFormed = false ∧
    (Instr.tick 1 0 0).wellFormed = false ∧ (Instr.tick 0 0x80 0).wellFormed = false ∧
    (Instr.reserved0 0).wellFormed = false ∧ (Instr.reserved5 0).wellFormed = false ∧
    (Instr.reserved6 0).wellFormed = false ∧ (Instr.reserved7 0).wellFormed = false ∧
    (Instr.reserved8 0).wellFormed = false ∧ (Instr.reserved9 0).wellFormed = false ∧
    (Instr.reservedA 0).wellFormed = false ∧ (Instr.reservedB 0).wellFormed = false ∧
    (Instr.reservedC 0).wellFormed = false ∧ (Instr.reservedD 0).wellFormed = false ∧
    (Instr.reservedE 0).wellFormed = false ∧ (Instr.reservedF 0).wellFormed = false := by decide

/-- 00_scope.md R7 to R9: each illegal parameter is refused, and the boundary values are taken. -/
theorem test_params_refuse :
    Config.params? 0xFFFF#16 13 0x7FFF#16 false = none ∧ Config.params? 10 16 0x7FFF#16 false = none ∧
    Config.params? 10 13 0x0001#16 false = none ∧
    Config.params? 0xFFFE#16 15 0x8000#16 true = some ⟨65534, 15, .min, true⟩ := by decide

/-! ### Commands, one step each -/

/-- 95_test_vectors.md S1 through the ports, as the first command after reset. -/
theorem test_dec2iq_worked :
    (after (step (State.reset.withFetchWord 32 0x1001005F))).map State.rsp = some (some 0x04C0#16) := by decide

/-- 95_test_vectors.md 2.3: 16383/2 meets the guard's strict bound at once. -/
theorem test_dec2iq_trace :
    dec2iqTrace 16383 2 = [16383, 3276, 6552, 13104, 26208, 5241, 10482, 20964] ∧
    dec2iqTrace (-16383) 2 = [-16383, -32766, -6553, -13106, -26212, -5242, -10484, -20968] := by decide

/-- 95_test_vectors.md 3.2: -6553/1 shifts before it multiplies. -/
theorem test_iq2dec_trace :
    iq2decTrace (-6553) 1 = [-6553, -3277, -16385, -8193, -4097, -2049, -1025, -513] := by decide

/-- 95_test_vectors.md 3.3: 20964/2 gives 16377. -/
theorem test_iq2dec_result :
    (after (exec (.iq2dec 0 2 20964) State.reset)).map State.rsp = some (some 16377#16) := by decide

/-- 95_test_vectors.md T10, first command. -/
theorem test_arm_overrides :
    (after (exec (.arm 0 0 1021) (tracker stPollingBusy 1000 .free))).map (fun t => (t.st, t.ts, t.rsp)) =
      some (0b010#3, 1021#16, some 0#16) := by decide

/-- 95_test_vectors.md T8, at elapsed 5, 11, and T4 at elapsed 10, with D = 10. -/
theorem test_tick_settle :
    (tickWith delayTen 65535 (tracker stWaitingSettle 65530 .silent)).st = stWaitingSettle ∧
    (tickWith delayTen 5 (tracker stWaitingSettle 65530 .silent)).st = stPollingBusy ∧
    (tickWith delayTen 510 (tracker stWaitingSettle 500 .silent)).st = stWaitingSettle := by decide

/-- 95_test_vectors.md T2, T14 and T12: only bit 13 counts, and an unrecognized state goes to Idle. -/
theorem test_tick_status :
    (after (exec (.tick 0 0 9) (tracker stStart 0 (.word 0x1000 .free)))).map (fun t => (t.st, t.rsp, t.reads)) =
      some (stIdle, some 1#16, 1) ∧
    (after (exec (.tick 0 0 9) (tracker stPollingBusy 0 (.word 0xFFFF .free)))).map (fun t => (t.st, t.rsp)) =
      some (stPollingBusy, some 0#16) ∧
    (after (exec (.tick 0 0 9) (tracker 0b101#3 0 .free))).map (fun t => (t.st, t.rsp, t.reads)) =
      some (stIdle, some 1#16, 0) := by decide

/-- 95_test_vectors.md T6: the variant with SETTLE_FALLTHROUGH, and R133's busy arm. -/
theorem test_tick_fallthrough :
    (tickWith ⟨10, 13, .max, true⟩ 511 (tracker stWaitingSettle 500 (.word 0x0000 .free))).st = stIdle ∧
    (tickWith ⟨10, 13, .max, true⟩ 511 (tracker stWaitingSettle 500 (.word 0x2000 .free))).st = stPollingBusy := by decide

/-- 95_test_vectors.md P5, steps 2 to 4: the reset aborts the TICK, its late answer is discarded, and the next TICK reads the next word. -/
theorem test_reset_aborts :
    (after (step (pendingTick stPollingBusy 50 [.reset] (.late (.word 0x0000 (.word 0x2000 .free)))))).map
      (fun t => (t.st, t.ts, t.pending, t.rsp, t.collab)) =
      some (stStart, 0#16, none, none, .word 0x2000 .free) := by decide

/-- 95_test_vectors.md T15. -/
theorem test_reserved :
    (after (exec (.reserved0 0) (tracker stIdle 1021 .free))).map (fun t => (t.st, t.ts, t.rsp, t.reads)) =
      some (stIdle, 1021#16, some 0#16, 0) ∧
    (after (exec (.reservedF 0x123ABCD) (tracker stIdle 1021 .free))).map (fun t => (t.st, t.ts, t.rsp, t.reads)) =
      some (stIdle, 1021#16, some 0#16, 0) := by decide

/-- 30_encoding.md R67: the assembler's example, a comment, a hexadecimal operand, a refused operand and the `.word` form. -/
theorem test_assembler :
    assembleLine ['D', 'E', 'C', '2', 'I', 'Q', ' ', '9', '5', ',', ' ', '1'] = .word 0x1001005F ∧
    assembleLine [' ', ';', 'x'] = .blank ∧
    assembleLine ['A', 'R', 'M', ' ', '0', 'x', 'F', 'F', 'F', 'A', ' ', ';', 'c'] = .word 0x3000FFFA ∧
    assembleLine ['T', 'I', 'C', 'K', ' ', '6', '5', '5', '3', '6'] = .refused ∧
    disassemble 0xF123ABCD = ['.', 'w', 'o', 'r', 'd', ' ', '0', 'x', 'F', '1', '2', '3', 'A', 'B', 'C', 'D'] := by decide

/-! ### Witnesses: the hypotheses of each statement can be met together -/

theorem witness_OneTableRowSelectsEachWord :
    ∃ r ∈ opcodeTable, r.selects 0x1001005F = true := by decide

/-- One word for each of the four operation codes. -/
theorem witness_OperandFieldsReachTheCommand :
    State.reset.pending = none ∧ (0x10FFFFFF#32).extractLsb' 28 4 = 0x1#4 ∧ (0x2F000000#32).extractLsb' 28 4 = 0x2#4 ∧
    (0x3000FFFF#32).extractLsb' 28 4 = 0x3#4 ∧ (0x40000000#32).extractLsb' 28 4 = 0x4#4 := by decide

/-- A pair that differs in ignored bits for a conversion, for ARM, and for a reserved code. -/
theorem witness_IgnoredBitsChangeNothing :
    (opField 0x1F01005F = opField 0x1001005F ∧ decField 0x1F01005F = decField 0x1001005F ∧
      opndField 0x1F01005F = opndField 0x1001005F) ∧
    (opField 0x3ABCFFFA = opField 0x3000FFFA ∧ opndField 0x3ABCFFFA = opndField 0x3000FFFA) ∧
    opField 0xFFFFFFFF = opField 0xF0000000 ∧ opField 0xFFFFFFFF ≠ 0x1#4 ∧ opField 0xFFFFFFFF ≠ 0x2#4 ∧
    opField 0xFFFFFFFF ≠ 0x3#4 ∧ opField 0xFFFFFFFF ≠ 0x4#4 := by decide

theorem witness_AssemblerRefusesOtherMnemonics :
    (['.', 'w', 'o', 'r', 'd'] : List Char) ≠ ['D', 'E', 'C', '2', 'I', 'Q'] ∧
    (['.', 'w', 'o', 'r', 'd'] : List Char) ≠ ['I', 'Q', '2', 'D', 'E', 'C'] ∧
    (['.', 'w', 'o', 'r', 'd'] : List Char) ≠ ['A', 'R', 'M'] ∧
    (['.', 'w', 'o', 'r', 'd'] : List Char) ≠ ['T', 'I', 'C', 'K'] := by decide

theorem witness_AssembleDisassembleAgree :
    (Instr.dec2iq 0 255 0x8000).wellFormed = true ∧ (Instr.iq2dec 0 0 0).wellFormed = true ∧
    (Instr.arm 0 0 65535).wellFormed = true ∧ (Instr.tick 0 0 0).wellFormed = true := by decide

theorem witness_StepRunsDecodedCommand :
    (State.reset.withFetchWord 32 0x40000000).host = .command 0x40000000 :: [] ∧
    (State.reset.withFetchWord 32 0x40000000).pending = none := by decide

/-- The response given at once, and not yet. -/
theorem witness_CommandAcceptedWhenValidAndReady :
    nextEvent (State.reset.withFetchWord 32 0x30000001) = .accept 0x30000001 ∧
    (after (step (State.reset.withFetchWord 32 0x30000001))).map cmdReady = some true ∧
    nextEvent ({ tracker stStart 0 .silent with host := [.command 0x40000000] }) = .accept 0x40000000 ∧
    (after (step ({ tracker stStart 0 .silent with host := [.command 0x40000000] }))).map cmdReady = some false := by
  decide

theorem witness_PendingCommandHoldsTheNext :
    (pendingTick stStart 7 [.command 0x30000001] .silent).pending = some 7#16 ∧
    (pendingTick stStart 7 [.command 0x30000001] .silent).host.head? ≠ some .reset := by decide

theorem witness_ResetRestoresStart : (pendingTick stPollingBusy 7 [.reset] .silent).host = .reset :: [] := by decide

theorem witness_ResetAbortsPendingTick :
    (pendingTick stPollingBusy 50 [.reset] (.late (.word 3 .free))).host = .reset :: [] ∧
    (pendingTick stPollingBusy 50 [.reset] (.late (.word 3 .free))).pending = some 50#16 ∧
    (pendingTick stPollingBusy 50 [.reset] (.late (.word 3 .free))).collab = delayed 1 (.word 3 .free) := by decide

/-- Both ends of a command under a collaborator that never answers: an ARM responds, a TICK that reads waits. -/
theorem witness_NoCommandFails :
    (tracker stStart 0 .silent).pending = none ∧ opOf (.tick 0 0 9) = 0x4#4 ∧ (tracker stStart 0 .silent).st = 0b001#3 ∧
    ((tracker stStart 0 .silent).collab.poll ((tracker stStart 0 .silent).reads + 1)).1 = none ∧
    (after (exec (.tick 0 0 9) (tracker stStart 0 .silent))).map (fun t => (t.pending, t.rsp)) = some (some 9#16, none) ∧
    (after (exec (.arm 0 0 9) (tracker stStart 0 .silent))).map (fun t => (t.pending, t.rsp)) = some (none, some 0#16) := by decide

theorem witness_SettleDelayOf65535Refused : (0xFFFE#16 : BitVec 16) ≠ 0xFFFF#16 := by decide

/-- Both int16 extremes. -/
theorem witness_FallbackStepsRound : isInt16 (-32768) ∧ isInt16 32767 := by
  unfold isInt16 int16Min int16Max; decide

/-- The first value outside each range, on both sides (40_converter.md R86). -/
theorem witness_Dec2iqOutOfRangeSaturates :
    255 < (256#16).toInt ∧ (BitVec.ofInt 16 (-257)).toInt < -256 ∧ 2559 < (2560#16).toInt ∧
    (BitVec.ofInt 16 (-2561)).toInt < -2560 ∧ 25599 < (25600#16).toInt ∧ (BitVec.ofInt 16 (-25601)).toInt < -25600 := by
  decide

/-- The least invalid decimals with a value of each sign. -/
theorem witness_Dec2iqInvalidDecimalsSaturates :
    2 < (3#8).toNat ∧ 2 < (255#8).toNat ∧ 0 < (1#16).toInt ∧ (0xFFFF#16).toInt < 0 ∧ (0#16).toInt = 0 := by decide

theorem witness_Dec2iqNeverOverflows : (2 : Nat) ≤ 2 ∧ isInt16 (-25600) := by
  unfold isInt16 int16Min int16Max; decide

theorem witness_Iq2decNeverOverflows : (2 : Nat) ≤ 2 ∧ isInt16 (-32767) ∧ (-32767 : Int) ≠ -32768 := by
  unfold isInt16 int16Min int16Max; decide

/-- A pair that stalls and one that does not. -/
theorem witness_Dec2iqStallsAtLowerBoundsOnly :
    validRange 2 = some (-25600, 25599) ∧ (dec2iqRounds (-25600) 2).2 ≠ 0 ∧ (dec2iqRounds (-25599) 2).2 = 0 := by decide

theorem witness_Dec2iqWholeDegreesExact :
    -256 ≤ (BitVec.ofInt 16 (-256)).toInt ∧ (BitVec.ofInt 16 (-256)).toInt ≤ 255 ∧ (255#16).toInt ≤ 255 := by decide

/-- The lower bound of each range, and a value whose exact result is an integer. -/
theorem witness_Dec2iqErrorBounds :
    validRange 0 = some (-256, 255) ∧ validRange 1 = some (-2560, 2559) ∧ validRange 2 = some (-25600, 25599) ∧
    (10 : Int) ^ 1 ∣ 95 * 128 := by decide

theorem witness_Dec2iqMonotoneAndOdd :
    isInt16 (-16385) ∧ isInt16 (-16385 + 1) ∧ ¬ ((2 : Nat) = 2 ∧ (-16385 : Int) = -16384) ∧
    validRange 2 = some (-25600, 25599) ∧ (-25600 : Int) ≤ -16382 ∧ (16382 : Int) ≤ 25599 := by
  unfold isInt16 int16Min int16Max; decide

theorem witness_Iq2decSaturatedValues : 2 < (3#8).toNat ∧ (2#8).toNat ≤ 2 := by decide

theorem witness_Iq2decNeverStalls : (2 : Nat) ≤ 2 ∧ (-32768 : Int) < -32767 ∧ (-32767 : Int) < 32767 := by decide

theorem witness_Iq2decErrorBoundsAndMonotone : (-32768 : Int) < 32766 ∧ (32766 : Int) < 32767 ∧ (32765 : Int) + 1 < 32767 := by
  decide

/-- The lower bound, a value over it, and an exactly representable one. -/
theorem witness_RoundTripError :
    validRange 1 = some (-2560, 2559) ∧ (-2560 : Int) ≤ 95 ∧ (95 : Int) ≤ 2559 ∧ (95 : Int) ≠ -2560 ∧
    (10 : Int) ^ 1 ∣ 95 * 128 := by decide

theorem witness_TickInIdle : (tracker 0b000#3 5 .silent).st = 0b000#3 := by decide

/-- Both answers of the busy flag, each with every other bit the other way. -/
theorem witness_TickInStart :
    (tracker 0b001#3 0 (.word 0xDFFF .silent)).st = 0b001#3 ∧ (tracker 0b001#3 0 (.word 0xDFFF .silent)).pending = none ∧
    (tracker 0b001#3 0 (.word 0xDFFF .silent)).collab.poll 1 = (some 0xDFFF#16, .silent) ∧
    (0xDFFF#16).getLsbD 13 = false ∧
    (tracker 0b001#3 0 (.word 0x2000 .silent)).collab.poll 1 = (some 0x2000#16, .silent) ∧
    (0x2000#16).getLsbD 13 = true := by decide

theorem witness_TickInWriteIssued : (tracker 0b010#3 5 .silent).st = 0b010#3 := by decide

/-- SETTLE_DELAY is below 65535, so an elapsed time of 65535 is over it and one of 0 is not. -/
theorem settleDelay_between (ts : BitVec 16) :
    Config.hardware.settleDelay.val < (ts - 1#16 - ts).toNat ∧ (ts - ts).toNat ≤ Config.hardware.settleDelay.val := by
  have e : ts - 1#16 - ts = 0xFFFF#16 := by rw [BitVec.sub_eq_iff_eq_add, BitVec.sub_eq_iff_eq_add, BitVec.add_assoc, BitVec.add_comm ts, ← BitVec.add_assoc]; simp
  rw [e, BitVec.sub_self]
  exact ⟨by simp, Nat.zero_le _⟩

theorem witness_TickInWaitingSettle :
    (tracker 0b011#3 500 .silent).st = 0b011#3 ∧
    Config.hardware.settleDelay.val < (499#16 - (tracker 0b011#3 500 .silent).ts).toNat ∧
    (500#16 - (tracker 0b011#3 500 .silent).ts).toNat ≤ Config.hardware.settleDelay.val :=
  ⟨rfl, settleDelay_between 500#16⟩

theorem witness_TickInPollingBusy :
    (tracker 0b100#3 0 (.word 0xDFFF .silent)).st = 0b100#3 ∧ (tracker 0b100#3 0 (.word 0xDFFF .silent)).pending = none ∧
    (tracker 0b100#3 0 (.word 0xDFFF .silent)).collab.poll 1 = (some 0xDFFF#16, .silent) ∧
    (0xDFFF#16).getLsbD 13 = false ∧
    (tracker 0b100#3 0 (.word 0x2000 .silent)).collab.poll 1 = (some 0x2000#16, .silent) ∧
    (0x2000#16).getLsbD 13 = true := by decide

theorem witness_TickInUnrecognizedState :
    (tracker 0b101#3 0 .silent).st = 0b101#3 ∧ (tracker 0b110#3 0 .silent).st = 0b110#3 ∧
    (tracker 0b111#3 0 .silent).st = 0b111#3 := by decide

/-- A witness for each of the three clauses. -/
theorem witness_UnansweredTickStaysPending :
    (tracker 0b100#3 0 (.late .free)).collab.poll 1 = (none, .free) ∧
    ((pendingTick stStart 7 [] (.late .free)).pending = some 7#16 ∧ (pendingTick stStart 7 [] (.late .free)).host.head? ≠ some .reset ∧
      (pendingTick stStart 7 [] (.late .free)).collab.poll 1 = (none, .free)) ∧
    (pendingTick stStart 7 [] .silent).pending.isSome = true ∧ (pendingTick stStart 7 [] .silent).collab = .silent := by decide

theorem witness_AnswerCompletesPendingTick :
    (pendingTick 0b001#3 7 [] (.word 0x2000 .free)).pending = some 7#16 ∧
    (pendingTick 0b001#3 7 [] (.word 0x2000 .free)).host.head? ≠ some .reset ∧
    (pendingTick 0b001#3 7 [] (.word 0x2000 .free)).collab.poll 1 = (some 0x2000#16, .free) ∧
    (0x2000#16).getLsbD 13 = true ∧
    (pendingTick 0b100#3 7 [] (.word 0 .free)).collab.poll 1 = (some 0#16, .free) ∧ (0#16).getLsbD 13 = false := by decide

/-- A TICK that reads and completes, and the two sides of the settle test. -/
theorem witness_TickFollowsTransitionTable :
    ((tracker stStart 0 (.word 0 .free)).pending = none ∧
      (after (exec (.tick 0 0 9) (tracker stStart 0 (.word 0 .free)))).map (fun t => (t.pending, t.reads)) = some (none, 1)) ∧
    Config.hardware.settleDelay.val < (499#16 - 500#16).toNat ∧ (500#16 - 500#16).toNat ≤ Config.hardware.settleDelay.val :=
  ⟨by decide, settleDelay_between 500#16⟩

theorem witness_TickAnswersIdleIndication :
    (tracker stPollingBusy 0 (.word 0 .free)).pending = none ∧
    (after (exec (.tick 0 0 9) (tracker stPollingBusy 0 (.word 0 .free)))).map State.pending = some none := by decide

/-- A reading TICK, the settled case of the variant, and a command that is no TICK. -/
theorem witness_OnlyTickReadsAndAtMostOnce :
    (tracker 0b001#3 0 .silent).st = 0b001#3 ∧
    ((tracker 0b011#3 500 .silent).st = 0b011#3 ∧ (⟨10, 13, .max, true⟩ : Config.Params).settleFallthrough = true ∧
      (⟨10, 13, .max, true⟩ : Config.Params).settleDelay.val < (511#16 - (tracker 0b011#3 500 .silent).ts).toNat) ∧
    ¬ ((tracker 0b000#3 0 .silent).st = 0b001#3 ∨ (tracker 0b000#3 0 .silent).st = 0b100#3 ∨
      (tracker 0b000#3 0 .silent).st = 0b011#3) ∧
    opOf (.arm 0 0 0) ≠ 0x4#4 ∧ (after (exec (.arm 0 0 0) State.reset)).map State.reads = some 0 := by decide

theorem witness_FallthroughVariantPolls :
    (tracker 0b011#3 500 (.word 0 .free)).st = 0b011#3 ∧ (tracker 0b011#3 500 (.word 0 .free)).pending = none ∧
    (⟨10, 13, .max, true⟩ : Config.Params).settleDelay.val < (511#16 - (tracker 0b011#3 500 (.word 0 .free)).ts).toNat ∧
    (tracker 0b011#3 500 (.word 0 .free)).collab.poll 1 = (some 0#16, .free) ∧
    (0#16).getLsbD (⟨10, 13, .max, true⟩ : Config.Params).busyBit.val = false ∧
    (0x2000#16).getLsbD (⟨10, 13, .max, true⟩ : Config.Params).busyBit.val = true := by decide

/-- A witness for each of the three clauses. -/
theorem witness_NowAndOtherStatusBitsIgnored :
    ((tracker stStart 0 .silent).st ≠ 0b011#3 ∧ (tracker stStart 0 .silent).pending = none ∧
      (after (exec (.tick 0 0 1) (tracker stStart 0 .silent))).isSome = true) ∧
    ((pendingTick stStart 7 [] .silent).host.head? ≠ some .reset ∧ (after (step (pendingTick stStart 7 [] .silent))).isSome = true) ∧
    (0xDFFF#16).getLsbD 13 = (0x0000#16).getLsbD 13 := by decide

/-- An ARM, a reset, and a step that is neither. -/
theorem witness_OnlyArmAndResetWriteTimestamp :
    (after (step (State.reset.withFetchWord 32 0x3000FFFA))).map State.ts = some 65530#16 ∧ isArm 0x3000FFFA ∧
    (after (step (pendingTick stStart 7 [.reset] .silent))).map State.ts = some 0#16 ∧
    (after (step (tracker stIdle 5 .silent))).map State.ts = some 5#16 := by unfold isArm; decide

/-- Two states that differ in the timestamp alone, both of which step. -/
theorem witness_UnreadTimestampIsUnobservable :
    sameButUnreadTs (tracker stStart 0 .silent) (tracker stStart 9 .silent) ∧
    (after (step (tracker stStart 0 .silent))).isSome = true :=
  ⟨⟨rfl, by decide⟩, by decide⟩

/-- A step for each clause: out of Idle by ARM, into Start by reset, into WaitingSettle, and a TICK in Idle. -/
theorem witness_AbsorptionAndReachability :
    (after (step ({ tracker 0b000#3 0 .silent with host := [.command 0x30000001] }))).map State.st = some 0b010#3 ∧
    (after (step ({ tracker 0b000#3 0 .silent with host := [.reset] }))).map State.st = some 0b001#3 ∧
    (after (step ({ tracker 0b010#3 0 .silent with host := [.command 0x40000001] }))).map State.st = some 0b011#3 ∧
    (after (exec (.tick 0 0 1) (tracker 0b000#3 0 .silent))).map State.st = some 0b000#3 := by decide

/-- ... and into PollingBusy, by a TICK that is late enough. -/
theorem witness_into_PollingBusy :
    (after (step ({ tracker 0b011#3 0 .silent with host := [.command 0x4000FFFF] }))).map State.st = some 0b100#3 := by
  have h : settled Config.hardware 0#16 0xFFFF#16 = true := decide_eq_true (by simp [elapsed])
  show some (nextSt Config.hardware 0b011#3 0#16 false 0xFFFF#16) = some 0b100#3
  simp only [nextSt, show phaseOf 0b011#3 = .waitingSettle from rfl, h]
  rfl

/-- The invariant holds with a TICK pending too, and such a state steps. -/
theorem witness_EveryStepKeepsInvariant :
    TrackerInv (pendingTick stStart 7 [] (.word 0 .free)) ∧ (after (step (pendingTick stStart 7 [] (.word 0 .free)))).isSome = true := by
  unfold TrackerInv; decide

/-- In WriteIssued with three TICKs, the second late enough whatever SETTLE_DELAY is, a reset after them, and one answer. -/
def armedState : State :=
  { tracker 0b010#3 0 (.word 0 .silent) with
    host := [.command 0x40000000, .command 0x4000FFFF, .command 0x40000000, .reset] }

theorem late_armedState : Config.hardware.settleDelay.val < (opndField 0x4000FFFF - armedState.ts).toNat := by
  simp [opndField, armedState, tracker, State.reset]

/-- Its third step reads the status, the second having entered PollingBusy. -/
theorem armedState_reads : ∃ t, run 3 armedState = .next t ∧ t.reads ≠ armedState.reads := by
  have settles : step { armedState with st := stWaitingSettle, host := armedState.host.tail, rsp := some 0x0000#16 } =
      .next { armedState with st := stPollingBusy, host := armedState.host.tail.tail, rsp := some 0x0000#16 } := by
    have late : settled Config.hardware armedState.ts 0xFFFF#16 = true := decide_eq_true late_armedState
    show Host.Outcome.next (completeTick Config.hardware 0xFFFF#16 false _) = _
    simp [completeTick, late]
    rfl
  exact ⟨_, (run_succ rfl).trans ((run_succ settles).trans rfl), by decide⟩

/-- A state with the invariant in WaitingSettle (its step to PollingBusy is `witness_into_PollingBusy`), and one in WriteIssued with
TICKs and a reset after them. -/
theorem witness_SettleGuarantee :
    TrackerInv ({ tracker 0b011#3 0 .silent with host := [.command 0x4000FFFF] }) ∧
    armedState.st = 0b010#3 ∧ armedState.pending = none ∧
    armedState.host = commands [0x40000000, 0x4000FFFF, 0x40000000] ++ [.reset] ∧
    3 ≤ ([0x40000000, 0x4000FFFF, 0x40000000] : List CmdWord).length ∧
    (∀ w ∈ ([0x40000000, 0x4000FFFF, 0x40000000] : List CmdWord), isTick w) ∧
    ∃ t, run 3 armedState = .next t ∧ t.reads ≠ armedState.reads :=
  ⟨by unfold TrackerInv; decide, rfl, rfl, rfl, by decide, by simp [isTick, opField], armedState_reads⟩

theorem witness_SettleTestNeverEarly : (65530 : Nat) ≤ 65541 ∧ 65541 - 65530 < 65536 := by decide

/-- Three TICKs, the second late enough whatever the delay is, and an answer that is not busy. -/
theorem witness_MinimumTickCount :
    armedState.st = 0b010#3 ∧ armedState.pending = none ∧
    armedState.host = .command 0x40000000 :: .command 0x4000FFFF :: .command 0x40000000 :: [.reset] ∧
    isTick 0x40000000 ∧ isTick 0x4000FFFF ∧ Config.hardware.settleDelay.val < (opndField 0x4000FFFF - armedState.ts).toNat ∧
    armedState.collab.poll (armedState.reads + 1) = (some 0#16, .silent) ∧ (0#16).getLsbD 13 = false :=
  ⟨rfl, rfl, rfl, rfl, rfl, late_armedState, rfl, rfl⟩

/-- In Start with two TICKs and a reset after them, and one busy answer and one that is not. -/
def startState : State :=
  { tracker 0b001#3 0 (.word 0x2000 (.word 0xDFFF .silent)) with host := [.command 0x40000000, .command 0x4F120001, .reset] }

theorem witness_PollingFromStart :
    startState.st = 0b001#3 ∧ startState.pending = none ∧ startState.host = commands [0x40000000, 0x4F120001] ++ [.reset] ∧
    startState.collab = Collaborator.answers ([0x2000] ++ [0xDFFF]) .silent ∧
    ([0x40000000, 0x4F120001] : List CmdWord).length = ([0x2000] : List (BitVec 16)).length + 1 ∧
    (∀ w ∈ ([0x40000000, 0x4F120001] : List CmdWord), isTick w) ∧
    (∀ b ∈ ([0x2000] : List (BitVec 16)), b.getLsbD 13 = true) ∧ (0xDFFF#16).getLsbD 13 = false :=
  ⟨rfl, rfl, rfl, rfl, rfl, by simp [isTick, opField], by simp, rfl⟩

/-- In WriteIssued with a first TICK, a late one, two after it and a reset, and one busy answer and one that is not. -/
def fairState : State :=
  { tracker 0b010#3 0 (.word 0x2000 (.word 0 .free)) with
    host := [.command 0x40000000, .command 0x4000FFFF, .command 0x40000000, .command 0x40000000, .reset] }

theorem witness_FairHostReachesIdle :
    fairState.pending = none ∧
    fairState.host = commands (0x40000000 :: [] ++ 0x4000FFFF :: [0x40000000, 0x40000000]) ++ [.reset] ∧
    (∀ w ∈ (0x40000000 :: [] ++ 0x4000FFFF :: [0x40000000, 0x40000000] : List CmdWord), isTick w) ∧
    Config.hardware.settleDelay.val < (opndField 0x4000FFFF - fairState.ts).toNat ∧
    ([0x2000] : List (BitVec 16)).length < ([0x40000000, 0x40000000] : List CmdWord).length ∧
    fairState.collab = Collaborator.answers ([0x2000] ++ [0]) .free ∧
    (∀ b ∈ ([0x2000] : List (BitVec 16)), b.getLsbD 13 = true) ∧ (0#16).getLsbD 13 = false :=
  ⟨rfl, rfl, by simp [isTick, opField], late_armedState, by decide, rfl, by simp, rfl⟩

/-- 95_test_vectors.md P5: a TICK whose StatusRead a reset aborts, and the TICK after it. -/
def abortState : State :=
  { tracker 0b100#3 40 (.late (.word 0x2000 (.word 0x0000 .silent))) with
    host := [.command 0x40000032, .reset, .command 0x4000003C] }

/-- P5: the port events, and the end state with two StatusRead requests and one response. -/
theorem test_port_events :
    events 3 abortState =
      [.command 0x40000032, .statRequest, .reset, .command 0x4000003C, .statRequest, .statWord 0x0000, .response 0x0001] ∧
    endState 3 abortState = some ⟨0b000#3, 0x0000#16, [.statRequest, .statRequest, .statWord 0x0000, .response 0x0001]⟩ := by
  decide

/-- A run whose last command waits, which has not ended, and one that has. -/
theorem witness_EndOfRun :
    abortState.pending = none ∧
    ((after (run 1 abortState)).map State.pending = some (some 50#16) ∧ (endState 1 abortState).isNone = true) ∧
    (after (run 3 abortState)).map State.pending = some none ∧ (endState 3 abortState).isSome = true := by decide

end Sys2Proof.Tests
end

section
/-! The reset state, and the two conversions as whole commands (10_state.md R24, R35). -/

namespace Sys2Proof.Machine

@[simp] theorem reset_st : State.reset.st = stStart := rfl
@[simp] theorem reset_ts : State.reset.ts = 0x0000#16 := rfl
@[simp] theorem reset_pending : State.reset.pending = none := rfl

section
variable (rsv : BitVec 4) (decimals : BitVec 8) (value : BitVec 16) (s : State)

@[simp] theorem exec_dec2iq :
    exec (.dec2iq rsv decimals value) s =
      .next (respond (BitVec.ofInt 16 (dec2iq Config.hardware value.toInt decimals.toNat)) s) := rfl

@[simp] theorem exec_iq2dec :
    exec (.iq2dec rsv decimals value) s =
      .next (respond (BitVec.ofInt 16 (iq2dec value.toInt decimals.toNat)) s) := rfl

end

/-- Settles O15: R35's table, read off the fields of the reset state. -/
theorem resetState : Obligations.ResetState := ⟨reset_st, reset_ts, reset_pending⟩

/-- Settles O20: either command is `respond` with a word in which the state does not occur, and `respond` replaces `rsp` alone. -/
theorem converterIsPure : Obligations.ConverterIsPure := by
  unfold Obligations.ConverterIsPure
  intro rsv decimals value
  constructor
  · intro s
    rw [exec_dec2iq, respond]
  · intro s
    rw [exec_iq2dec, respond]

end Sys2Proof.Machine
end

section
/-! The wait for the answer of a StatusRead (20_memory.md R48; 30_encoding.md R70). -/

namespace Sys2Proof.Machine

/-- Frame of a wait: answered or not, it takes nothing from the host, keeps the timestamp and makes no second StatusRead. -/
@[simp] theorem awaitAnswer_frame (p : Config.Params) (now : BitVec 16) (s : State) :
    (awaitAnswer p now s).host = s.host ∧ (awaitAnswer p now s).ts = s.ts ∧ (awaitAnswer p now s).reads = s.reads := by
  obtain ⟨status, rest, -, answered⟩ | ⟨rest, -, unanswered⟩ := awaitAnswer_cases p now s
  · simp [answered]
  · simp [unanswered]

/-- With a TICK pending and no reset at the front, the step is the wait. -/
theorem step_awaiting {s : State} {now : BitVec 16} (h : s.host.head? ≠ some .reset) (hp : s.pending = some now) :
    step s = .next (awaitAnswer Config.hardware now s) := by
  simp [step, nextEvent_awaiting h hp]

/-- Settles O12: the step is the wait, whose frame holds all three fields. -/
theorem pendingCommandHoldsTheNext : Obligations.PendingCommandHoldsTheNext := by
  unfold Obligations.PendingCommandHoldsTheNext
  intro s now hp h
  exact ⟨awaitAnswer Config.hardware now s, step_awaiting h hp, awaitAnswer_frame Config.hardware now s⟩

end Sys2Proof.Machine
end

section
/-! The decoder and `exec` by operation code (30_encoding.md R61, R65). -/

namespace Sys2Proof

variable {w : CmdWord}

theorem decode_dec2iq (h : opField w = 0x1#4) : decode w = .dec2iq (rsvField w) (decField w) (opndField w) := by
  simp [decode, h]

theorem decode_iq2dec (h : opField w = 0x2#4) : decode w = .iq2dec (rsvField w) (decField w) (opndField w) := by
  simp [decode, h]

theorem decode_arm (h : opField w = 0x3#4) : decode w = .arm (rsvField w) (decField w) (opndField w) := by
  simp [decode, h]

theorem decode_tick (h : opField w = 0x4#4) : decode w = .tick (rsvField w) (decField w) (opndField w) := by
  simp [decode, h]

/-- A word decodes to a command of the word's own operation code. -/
@[simp] theorem opOf_decode (w : CmdWord) : opOf (decode w) = opField w := by
  rcases opField_cases w with k | k | k | k | k | k | k | k | k | k | k | k | k | k | k | k <;> simp [decode, k, opOf]

/-- An operation code is one of the four with an effect, or reserved: 0x0 or 0x5 to 0xF (30_encoding.md R65). -/
theorem op_cases (op : BitVec 4) :
    op = 0x1#4 ∨ op = 0x2#4 ∨ op = 0x3#4 ∨ op = 0x4#4 ∨ (op = 0x0#4 ∨ 0x5#4 ≤ op) := by
  revert op; decide

end Sys2Proof

namespace Sys2Proof.Machine

@[simp] theorem exec_arm (rsv : BitVec 4) (dec : BitVec 8) (now : BitVec 16) (s : State) :
    exec (.arm rsv dec now) s = .next (respond 0x0000#16 { s with st := stWriteIssued, ts := now }) := rfl

@[simp] theorem exec_tick (rsv : BitVec 4) (dec : BitVec 8) (now : BitVec 16) (s : State) :
    exec (.tick rsv dec now) s = .next (tickWith Config.hardware now s) := rfl

/-- A command of a reserved code answers 0x0000 and does nothing else (30_encoding.md R65). -/
theorem exec_reserved {i : Instr} {s : State} (h : opOf i = 0x0#4 ∨ 0x5#4 ≤ opOf i) :
    exec i s = .next (respond 0x0000#16 s) := by
  cases i with
  | dec2iq | iq2dec | arm | tick => simp [opOf] at h
  | _ => rfl

/-- What `exec` does with a word is fixed by OP, by DEC of a conversion, and by OPND of a command that is not reserved
(30_encoding.md R64). -/
theorem exec_decode_congr {w v : CmdWord} (s : State) (hop : opField w = opField v)
    (hconv : opField w = 0x1#4 ∨ opField w = 0x2#4 → decField w = decField v ∧ opndField w = opndField v)
    (htrack : opField w = 0x3#4 ∨ opField w = 0x4#4 → opndField w = opndField v) :
    exec (decode w) s = exec (decode v) s := by
  rcases op_cases (opField w) with h | h | h | h | h
  · obtain ⟨hdec, hopnd⟩ := hconv (.inl h)
    rw [decode_dec2iq h, decode_dec2iq (hop ▸ h), exec_dec2iq, exec_dec2iq, hdec, hopnd]
  · obtain ⟨hdec, hopnd⟩ := hconv (.inr h)
    rw [decode_iq2dec h, decode_iq2dec (hop ▸ h), exec_iq2dec, exec_iq2dec, hdec, hopnd]
  · rw [decode_arm h, decode_arm (hop ▸ h), exec_arm, exec_arm, htrack (.inl h)]
  · rw [decode_tick h, decode_tick (hop ▸ h), exec_tick, exec_tick, htrack (.inr h)]
  · have hv : opField v = 0x0#4 ∨ 0x5#4 ≤ opField v := hop ▸ h
    rw [exec_reserved (by rwa [opOf_decode]), exec_reserved (by rwa [opOf_decode])]

end Sys2Proof.Machine
end

section
/-! An accepted word: its operand fields, its ignored bits, and the reserved codes (30_encoding.md R62 to R65). -/

namespace Sys2Proof.Machine

/-- The step that accepts an offered word runs its command with nothing pending and the host's list as it was before the offer. -/
theorem step_offerFirst (w : CmdWord) (s : State) :
    step (offerFirst w s) = exec (decode w) { s with pending := none } := rfl

theorem step_offerFirst_of_ready {w : CmdWord} {s : State} (hp : s.pending = none) :
    step (offerFirst w s) = exec (decode w) s := by
  rw [step_offerFirst, ← hp]

/-- Settles O5: the accepting step runs the decoded command, whose operands are the word's DEC and OPND fields. -/
theorem operandFieldsReachTheCommand : Obligations.OperandFieldsReachTheCommand := by
  unfold Obligations.OperandFieldsReachTheCommand
  intro w s hp
  rw [step_offerFirst_of_ready hp]
  refine ⟨fun h => ?_, fun h => ?_, fun h => ?_, fun h => ?_⟩
  · rw [decode_dec2iq h, exec_dec2iq, respond, decField, opndField]
  · rw [decode_iq2dec h, exec_iq2dec, respond, decField, opndField]
  · rw [decode_arm h, exec_arm, respond, opndField]
  · rw [decode_tick h, exec_tick, opndField]

/-- Settles O6: both steps run a command from one and the same state, and `exec` does not see the ignored bits. -/
theorem ignoredBitsChangeNothing : Obligations.IgnoredBitsChangeNothing := by
  unfold Obligations.IgnoredBitsChangeNothing
  intro w v s hop hconv htrack
  rw [step_offerFirst, step_offerFirst, exec_decode_congr _ hop hconv htrack]

/-- Settles O7: each of the twelve constructors has a reserved operation code. -/
theorem reservedIsNoOperation : Obligations.ReservedIsNoOperation := by
  unfold Obligations.ReservedIsNoOperation
  intro rest s
  and_intros <;> exact exec_reserved (by simp [opOf])

end Sys2Proof.Machine
end

section
/-! The guards and the two fallback steps of the conversions (40_converter.md R81 to R83). -/

namespace Sys2Proof.Machine

open Sys2Proof.Safety

theorem isInt16_iff (v : Int) : isInt16 v ↔ -32768 ≤ v ∧ v ≤ 32767 := Iff.rfl

theorem isInt16_toInt (v : BitVec 16) : isInt16 v.toInt :=
  ⟨v.le_toInt, Int.le_sub_one_of_lt v.toInt_lt⟩

theorem tdiv5_of_nonneg {w : Int} (h : 0 ≤ w) : tdiv5 w = w / 5 := by
  obtain rfl | hpos := h.eq_or_lt
  · rfl
  · rw [tdiv5, Int.sign_eq_one_of_pos hpos, Int.natCast_ediv, Int.natAbs_of_nonneg h, one_mul]; rfl

theorem tdiv5_neg (w : Int) : tdiv5 (-w) = -tdiv5 w := by
  rw [tdiv5, tdiv5, Int.sign_neg, Int.natAbs_neg, Int.neg_mul]

/-- Division by 5 is division truncated toward zero (40_converter.md R82). -/
theorem tdiv5_eq_tdiv (w : Int) : tdiv5 w = w.tdiv 5 := by
  obtain h | h := Int.le_total 0 w
  · rw [tdiv5_of_nonneg h, Int.tdiv_eq_ediv_of_nonneg h]
  · have hneg : 0 ≤ -w := Int.neg_nonneg_of_nonpos h
    rw [← Int.neg_neg w, tdiv5_neg, tdiv5_of_nonneg hneg, Int.neg_tdiv, Int.tdiv_eq_ediv_of_nonneg hneg]

/-- Settles O18: the constants are literals, and each guard compares strictly with its two. -/
theorem guardConstants : Obligations.GuardConstants := by
  unfold Obligations.GuardConstants
  exact ⟨rfl, rfl, rfl, rfl, rfl, rfl, rfl, rfl, halfGuard_iff, fifthGuard_iff⟩

/-- A division by 5 leaves at most 32768 / 5. -/
theorem natAbs_tdiv5_le {w : Int} (h : isInt16 w) : (tdiv5 w).natAbs ≤ 6553 := by
  rw [isInt16_iff] at h
  obtain hw | hw := Int.le_total 0 w
  · rw [tdiv5_of_nonneg hw]; omega
  · rw [← Int.neg_neg w, tdiv5_neg, tdiv5_of_nonneg (by omega)]; omega

theorem isInt16_tdiv5 {w : Int} (h : isInt16 w) : isInt16 (tdiv5 w) := by
  have := natAbs_tdiv5_le h
  rw [isInt16_iff]
  omega

theorem isInt16_asr1 {w : Int} (h : isInt16 w) : isInt16 (asr1 w) := by
  rw [isInt16_iff, asr1] at *; omega

/-- Flooring a half is the arithmetic shift of the 16-bit pattern (40_converter.md R83). -/
theorem asr1_toInt (x : BitVec 16) : asr1 x.toInt = (x.sshiftRight 1).toInt := by
  rw [BitVec.toInt_sshiftRight, Int.shiftRight_eq_div_pow]; rfl

/-- Settles O19: division by 5 as `Int.tdiv`, the shift as `BitVec.sshiftRight`, which keeps the top bit. -/
theorem fallbackStepsRound : Obligations.FallbackStepsRound := by
  unfold Obligations.FallbackStepsRound
  refine ⟨fun w hw => ⟨tdiv5_eq_tdiv w, ?_, isInt16_tdiv5 hw⟩, rfl, rfl, rfl,
    fun x => ⟨asr1_toInt x, ?_, ?_⟩, rfl, rfl, rfl⟩
  · rw [tdiv5, Int.natCast_ediv, Int.natCast_natAbs]; rfl
  · simpa only [BitVec.msb_eq_getLsbD_last] using x.msb_sshiftRight (n := 1)
  · rw [asr1, Int.fdiv_eq_ediv_of_nonneg _ (by decide)]

end Sys2Proof.Machine
end

section
/-! Small steps of the rounds, and the pseudocode's loops as the same rounds (40_converter.md R84, R85, R90, R100). -/

namespace Sys2Proof.Machine

open Sys2Proof.Safety

section
variable {guard : Int → Bool} {prefer fall : Int → Int} {q p : Nat} {w : Int}

theorem preferSteps_pass (h : guard w = true) :
    preferSteps guard prefer (p + 1) w = preferSteps guard prefer p (prefer w) := by
  simp [preferSteps, h]

theorem preferSteps_blocked (h : guard w = false) : preferSteps guard prefer p w = (w, p) := by
  cases p <;> simp [preferSteps, h]

/-- A guard that holds spends one preferred step. -/
theorem rescale_prefer (h : guard w = true) :
    rescale guard prefer fall q (p + 1) w = rescale guard prefer fall q p (prefer w) := by
  cases q <;> simp [rescale, preferSteps_pass h]

/-- A guard that fails spends one fallback step. -/
theorem rescale_fall (h : guard w = false) :
    rescale guard prefer fall (q + 1) p w = rescale guard prefer fall q p (fall w) := by
  simp [rescale, preferSteps_blocked h]

/-- So does a preferred budget that is spent. -/
theorem rescale_fall_spent :
    rescale guard prefer fall (q + 1) 0 w = rescale guard prefer fall q 0 (fall w) := rfl

theorem rescale_done : rescale guard prefer fall 0 0 w = (w, 0) := rfl

/-- A loop that runs the rounds of R84 one by one returns what they end in, when its fuel covers both budgets, of which each
round spends at least one. -/
theorem loop_eq_finishRounds {loop : Nat → Int → Nat → Nat → Option Int}
    (done : ∀ fuel w, loop fuel w 0 0 = some w)
    (round : ∀ fuel w p q, loop (fuel + 1) w p (q + 1) =
      loop fuel (fall (preferSteps guard prefer p w).1) (preferSteps guard prefer p w).2 q)
    (last : ∀ fuel w p, loop (fuel + 1) w (p + 1) 0 = some (finishRounds (preferSteps guard prefer (p + 1) w)))
    (fuel : Nat) (hfuel : q + p ≤ fuel) : loop fuel w p q = some (finishRounds (rescale guard prefer fall q p w)) := by
  induction q generalizing fuel p w with
  | zero =>
    cases p with
    | zero => exact done fuel w
    | succ p =>
      obtain ⟨fuel, rfl⟩ := Nat.exists_eq_succ_of_ne_zero (show fuel ≠ 0 by omega)
      exact last fuel w p
  | succ q ih =>
    obtain ⟨fuel, rfl⟩ := Nat.exists_eq_succ_of_ne_zero (show fuel ≠ 0 by omega)
    have hspent := (preferSteps_spec guard prefer p w).1
    rw [round, ih fuel (by omega), rescale]

end

/-! ### The rounds stay within int16 (40_converter.md R91, R101) -/

theorem isInt16_int16Min : isInt16 int16Min := ⟨by decide, by decide⟩

theorem isInt16_int16Max : isInt16 int16Max := ⟨by decide, by decide⟩

theorem isInt16_double {w : Int} (h : halfGuard w = true) : isInt16 (w * 2) := by
  rw [halfGuard_iff] at h
  rw [isInt16_iff]
  omega

theorem isInt16_quintuple {w : Int} (h : fifthGuard w = true) : isInt16 (w * 5) := by
  rw [fifthGuard_iff] at h
  rw [isInt16_iff]
  omega

/-- A working value that is an int16, finished either way, is one. -/
theorem isInt16_finishRounds {r : Int × Nat} (h : isInt16 r.1) : isInt16 (finishRounds r) := by
  rw [finishRounds, saturateBySign]
  split_ifs
  · exact h
  · exact isInt16_int16Min
  · exact isInt16_int16Max

theorem isInt16_dec2iqRounds {v : Int} (d : Nat) (h : isInt16 v) : isInt16 (dec2iqRounds v d).1 :=
  rescale_keeps isInt16 halfGuard _ _ (fun _ _ => isInt16_double) (fun _ => isInt16_tdiv5) _ _ v h

theorem isInt16_iq2decRounds {v : Int} (d : Nat) (h : isInt16 v) : isInt16 (iq2decRounds v d).1 :=
  rescale_keeps isInt16 fifthGuard _ _ (fun _ _ => isInt16_quintuple) (fun _ => isInt16_asr1) _ _ v h

/-! ### The pseudocode's loops are the rounds (40_converter.md R90, R100) -/

theorem dec2iqInner_eq_preferSteps (s : Nat) (w : Int) : dec2iqInner s w s = preferSteps halfGuard (· * 2) s w := by
  induction s generalizing w with
  | zero => rfl
  | succ s ih =>
    by_cases h : -16384 < w ∧ w < 16383
    · rw [preferSteps_pass ((halfGuard_iff w).mpr h), dec2iqInner, if_pos ⟨Nat.succ_ne_zero s, h⟩]
      exact ih (w * 2)
    · rw [preferSteps_blocked (by rwa [Bool.eq_false_iff, ne_eq, halfGuard_iff]), dec2iqInner, if_neg fun hs => h hs.2]

theorem iq2decInner_eq_preferSteps (k : Nat) (w : Int) : iq2decInner k w k = preferSteps fifthGuard (· * 5) k w := by
  induction k generalizing w with
  | zero => rfl
  | succ k ih =>
    by_cases h : -6553 < w ∧ w < 6553
    · rw [preferSteps_pass ((fifthGuard_iff w).mpr h), iq2decInner, if_pos ⟨Nat.succ_ne_zero k, h⟩]
      exact ih (w * 5)
    · rw [preferSteps_blocked (by rwa [Bool.eq_false_iff, ne_eq, fifthGuard_iff]), iq2decInner, if_neg fun hs => h hs.2]

theorem dec2iqLoop_done (fuel : Nat) (w : Int) : dec2iqLoop fuel w 0 0 = some w := by
  cases fuel <;> rfl

theorem iq2decLoop_done (fuel : Nat) (w : Int) : iq2decLoop fuel w 0 0 = some w := by
  cases fuel <;> rfl

/-- The outer loop of R90 returns what the rounds end in. -/
theorem dec2iqLoop_eq (fuel : Nat) (w : Int) (s k : Nat) (h : k + s ≤ fuel) :
    dec2iqLoop fuel w s k = some (finishRounds (rescale halfGuard (· * 2) tdiv5 k s w)) := by
  refine loop_eq_finishRounds dec2iqLoop_done (fun fuel w s k => ?_) (fun fuel w s => ?_) fuel h
  · simp [dec2iqLoop, dec2iqInner_eq_preferSteps, tdiv5_eq_tdiv]
  · rw [dec2iqLoop, dec2iqInner_eq_preferSteps, finishRounds]
    by_cases hleft : (preferSteps halfGuard (· * 2) (s + 1) w).2 = 0
    · simp [hleft, dec2iqLoop_done]
    · simp [hleft, saturateBySign, int16Min, int16Max]

/-- The outer loop of R100 returns what the rounds end in. -/
theorem iq2decLoop_eq (fuel : Nat) (w : Int) (s k : Nat) (h : s + k ≤ fuel) :
    iq2decLoop fuel w s k = some (finishRounds (rescale fifthGuard (· * 5) asr1 s k w)) := by
  refine loop_eq_finishRounds (loop := fun fuel w k s => iq2decLoop fuel w s k) iq2decLoop_done
    (fun fuel w k s => ?_) (fun fuel w k => ?_) fuel h
  · simp [iq2decLoop, iq2decInner_eq_preferSteps, asr1, Int.fdiv_eq_ediv_of_nonneg]
  · rw [iq2decLoop, iq2decInner_eq_preferSteps, finishRounds]
    by_cases hleft : (preferSteps fifthGuard (· * 5) (k + 1) w).2 = 0
    · simp [hleft, iq2decLoop_done]
    · simp [hleft, saturateBySign, int16Min, int16Max]

end Sys2Proof.Machine
end

section
/-! What each conversion does by the side of the checks an operand falls on (40_converter.md R86 to R88, R96, R97), and the
conversions as their pseudocode (R90, R100). -/

namespace Sys2Proof.Machine

open Sys2Proof.Safety

section
variable {d : Nat} {v lo hi : Int} {p : Config.Params}

theorem validRange_iff : validRange d = some (lo, hi) ↔
    (d = 0 ∧ lo = -256 ∧ hi = 255) ∨ (d = 1 ∧ lo = -2560 ∧ hi = 2559) ∨ (d = 2 ∧ lo = -25600 ∧ hi = 25599) := by
  rcases d with _ | _ | _ | d <;> simp [validRange, eq_comm]

theorem validRange_invalid (h : 2 < d) : validRange d = none := by
  match d, h with
  | _ + 3, _ => rfl

theorem validRange_cases (d : Nat) : 2 < d ∨ ∃ lo hi, validRange d = some (lo, hi) := by
  match d with
  | 0 | 1 | 2 => exact .inr ⟨_, _, rfl⟩
  | d + 3 => exact .inl (by omega)

theorem validRange_le (h : validRange d = some (lo, hi)) : d ≤ 2 := by
  by_contra hd
  simp [validRange_invalid (not_le.mp hd)] at h

theorem dec2iq_valid (h : validRange d = some (lo, hi)) :
    dec2iq p v d = if v < lo then int16Min else if hi < v then int16Max else finishRounds (dec2iqRounds v d) := by
  simp only [dec2iq, h]

theorem dec2iq_below (h : validRange d = some (lo, hi)) (hv : v < lo) : dec2iq p v d = int16Min := by
  rw [dec2iq_valid h, if_pos hv]

theorem dec2iq_above (h : validRange d = some (lo, hi)) (hv : hi < v) : dec2iq p v d = int16Max := by
  have hlo : ¬ v < lo := by rcases validRange_iff.mp h with h | h | h <;> omega
  rw [dec2iq_valid h, if_neg hlo, if_pos hv]

theorem dec2iq_inRange (h : validRange d = some (lo, hi)) (hlo : lo ≤ v) (hhi : v ≤ hi) :
    dec2iq p v d = finishRounds (dec2iqRounds v d) := by
  rw [dec2iq_valid h, if_neg hlo.not_gt, if_neg hhi.not_gt]

theorem dec2iq_invalid (h : 2 < d) :
    dec2iq p v d = if 0 < v then int16Max else if v < 0 then int16Min else satZeroValue p.satZero := by
  rw [dec2iq, validRange_invalid h]

theorem iq2dec_invalid (h : 2 < d) : iq2dec v d = int16Max := by
  simp [iq2dec, forcedValue, h]

theorem iq2dec_extreme (h : d ≤ 2) (hv : v = int16Min ∨ v = int16Max) : iq2dec v d = v := by
  simp [iq2dec, forcedValue, not_lt.mpr h, hv]

theorem iq2dec_converts (h : d ≤ 2) (hlo : -32768 < v) (hhi : v < 32767) :
    iq2dec v d = finishRounds (iq2decRounds v d) := by
  have hv : ¬ (v = int16Min ∨ v = int16Max) := by rw [int16Min, int16Max]; omega
  simp [iq2dec, forcedValue, not_lt.mpr h, hv]

theorem isInt16_dec2iq (p : Config.Params) (d : Nat) (h : isInt16 v) : isInt16 (dec2iq p v d) := by
  unfold dec2iq
  split
  · split_ifs
    · exact isInt16_int16Max
    · exact isInt16_int16Min
    · cases p.satZero with
      | max => exact isInt16_int16Max
      | min => exact isInt16_int16Min
  · split_ifs
    · exact isInt16_int16Min
    · exact isInt16_int16Max
    · exact isInt16_finishRounds (isInt16_dec2iqRounds d h)

theorem isInt16_iq2dec (d : Nat) (h : isInt16 v) : isInt16 (iq2dec v d) := by
  have hforced : isInt16 (forcedValue v d) := by
    rw [forcedValue]; split_ifs
    · exact isInt16_int16Max
    · exact h
  rw [iq2dec]; split_ifs
  · exact hforced
  · exact isInt16_finishRounds (isInt16_iq2decRounds d hforced)

theorem dec2iqPseudo_valid (h : validRange d = some (lo, hi)) (satZero : Int) :
    dec2iqPseudo satZero v d =
      if v < lo then some (-32768) else if hi < v then some 32767 else dec2iqLoop 7 v (7 - d) d := by
  obtain ⟨rfl, rfl, rfl⟩ | ⟨rfl, rfl, rfl⟩ | ⟨rfl, rfl, rfl⟩ := validRange_iff.mp h <;> rfl

theorem dec2iqPseudo_eq (v : Int) (d : Nat) : dec2iqPseudo 32767 v d = some (dec2iq Config.hardware v d) := by
  obtain h | ⟨lo, hi, h⟩ := validRange_cases d
  · rw [dec2iqPseudo, if_pos h, dec2iq_invalid h]
    split_ifs <;> rfl
  · rw [dec2iqPseudo_valid h, dec2iqLoop_eq 7 v (7 - d) d (by have := validRange_le h; omega), dec2iq_valid h]
    split_ifs <;> rfl

theorem iq2decPseudo_eq (v : Int) (d : Nat) : iq2decPseudo v d = some (iq2dec v d) := by
  by_cases h : 2 < d
  · rw [iq2decPseudo, if_pos h, iq2dec_invalid h]; rfl
  · rw [iq2decPseudo, if_neg h, iq2decLoop_eq 7 v (7 - d) d (by omega), iq2dec, forcedValue, if_neg h]
    exact (apply_ite some _ _ _).symm

end

/-- Settles O21: seven rounds of fuel cover both budgets, 7 - d and d. -/
theorem dec2iqFollowsPseudocode : Obligations.Dec2iqFollowsPseudocode := by
  unfold Obligations.Dec2iqFollowsPseudocode
  intro rsv d v s
  refine ⟨?_, dec2iq Config.hardware v.toInt d.toNat, dec2iqPseudo_eq _ _, isInt16_dec2iq _ _ (isInt16_toInt v), ?_⟩
  · rw [← commandWord, decode_dec2iq (opField_commandWord ..), rsvField_commandWord, decField_commandWord,
      opndField_commandWord]
  · rw [exec_dec2iq, respond]

/-- Settles O22: seven rounds of fuel cover both budgets, d and 7 - d. -/
theorem iq2decFollowsPseudocode : Obligations.Iq2decFollowsPseudocode := by
  unfold Obligations.Iq2decFollowsPseudocode
  intro rsv d v s
  refine ⟨?_, iq2dec v.toInt d.toNat, iq2decPseudo_eq _ _, isInt16_iq2dec _ (isInt16_toInt v), ?_⟩
  · rw [← commandWord, decode_iq2dec (opField_commandWord ..), rsvField_commandWord, decField_commandWord,
      opndField_commandWord]
  · rw [exec_iq2dec, respond]

theorem int16Pattern_min : BitVec.ofInt 16 int16Min = 0x8000#16 := rfl
theorem int16Pattern_max : BitVec.ofInt 16 int16Max = 0x7FFF#16 := rfl
theorem toInt_min : (0x8000#16).toInt = int16Min := rfl
theorem toInt_max : (0x7FFF#16).toInt = int16Max := rfl

/-- Settles O23: either side of the range check. -/
theorem dec2iqOutOfRangeSaturates : Obligations.Dec2iqOutOfRangeSaturates := by
  unfold Obligations.Dec2iqOutOfRangeSaturates
  intro rsv d v s lo hi hd
  have hrange : validRange d.toNat = some (lo, hi) := by
    rcases hd with ⟨rfl, rfl, rfl⟩ | ⟨rfl, rfl, rfl⟩ | ⟨rfl, rfl, rfl⟩ <;> rfl
  constructor
  · intro hv
    rw [exec_dec2iq, dec2iq_above hrange hv, int16Pattern_max, respond]
  · intro hv
    rw [exec_dec2iq, dec2iq_below hrange hv, int16Pattern_min, respond]

/-- Settles O24: no range is valid for decimals over 2, so the sign of the value decides. -/
theorem dec2iqInvalidDecimalsSaturates : Obligations.Dec2iqInvalidDecimalsSaturates := by
  unfold Obligations.Dec2iqInvalidDecimalsSaturates
  intro rsv d v s hd
  refine ⟨fun hv => ?_, fun hv => ?_, fun hv => ⟨?_, fun p => ?_⟩⟩
  · rw [exec_dec2iq, dec2iq_invalid hd, if_pos hv, int16Pattern_max, respond]
  · rw [exec_dec2iq, dec2iq_invalid hd, if_neg hv.le.not_gt, if_pos hv, int16Pattern_min, respond]
  · rw [exec_dec2iq, dec2iq_invalid hd, hv]; rfl
  · rw [dec2iqWith, valueOperand, decimalsOperand, dec2iq_invalid hd, hv, respond]
    cases p.satZero <;> rfl

/-- Settles O31: the value forced to MAX for decimals over 2, and the two values passed through. -/
theorem iq2decSaturatedValues : Obligations.Iq2decSaturatedValues := by
  unfold Obligations.Iq2decSaturatedValues
  intro rsv d s
  refine ⟨fun hd v => ?_, fun hd => ?_, fun hd => ?_⟩
  · rw [exec_iq2dec, iq2dec_invalid hd, int16Pattern_max, respond]
  · rw [exec_iq2dec, toInt_min, iq2dec_extreme hd (.inl rfl), int16Pattern_min, respond]
  · rw [exec_iq2dec, toInt_max, iq2dec_extreme hd (.inr rfl), int16Pattern_max, respond]

end Sys2Proof.Machine
end

section
/-! What the rounds of both conversions have in common (40_converter.md R84): multiplications by one number in turn with floored
divisions by another. -/

namespace Sys2Proof.Machine

/-- On the working values that `fits` holds of, by the two budgets, the rounds multiply by `a` and divide by `c`, rounding down;
both steps keep `fits`, and with no division left the guard holds, so that no round is in the no-progress state of R85. -/
structure FloorRounds (guard : Int → Bool) (fall : Int → Int) (a c : Int) (fits : Nat → Nat → Int → Prop) : Prop where
  c_pos : 0 < c
  a_pos : 0 < a
  fall_eq : ∀ {q p w}, fits (q + 1) p w → fall w = w / c
  fits_mul : ∀ {q p w}, fits q (p + 1) w → guard w = true → fits q p (w * a)
  fits_div : ∀ {q p w}, fits (q + 1) p w → fits q p (w / c)
  ends : ∀ {p w}, fits 0 (p + 1) w → guard w = true

namespace FloorRounds

variable {guard : Int → Bool} {fall : Int → Int} {a c : Int} {fits : Nat → Nat → Int → Prop}

/-- One induction for every fact about the result `r` of the rounds: it holds with both budgets spent, and going back over a
multiplication or a division keeps it. -/
theorem induction (h : FloorRounds guard fall a c fits) {motive : Nat → Nat → Int → Int × Nat → Prop}
    (done : ∀ w, motive 0 0 w (w, 0))
    (mul : ∀ q p w r, motive q p (w * a) r → motive q (p + 1) w r)
    (div : ∀ q p w r, motive q p (w / c) r → motive (q + 1) p w r)
    (q p : Nat) (w : Int) (hw : fits q p w) : motive q p w (rescale guard (· * a) fall q p w) := by
  induction q generalizing p w with
  | zero =>
    induction p generalizing w with
    | zero => exact done w
    | succ p ih =>
      rw [rescale_prefer (h.ends hw)]
      exact mul _ _ _ _ (ih _ (h.fits_mul hw (h.ends hw)))
  | succ q ihq =>
    induction p generalizing w with
    | zero =>
      rw [rescale_fall_spent, h.fall_eq hw]
      exact div _ _ _ _ (ihq _ _ (h.fits_div hw))
    | succ p ihp =>
      cases hguard : guard w with
      | true =>
        rw [rescale_prefer hguard]
        exact mul _ _ _ _ (ihp _ (h.fits_mul hw hguard))
      | false =>
        rw [rescale_fall hguard, h.fall_eq hw]
        exact div _ _ _ _ (ihq _ _ (h.fits_div hw))

/-- The rounds spend both budgets. -/
theorem spent (h : FloorRounds guard fall a c fits) {q p : Nat} {w : Int} (hw : fits q p w) :
    (rescale guard (· * a) fall q p w).2 = 0 :=
  h.induction (motive := fun _ _ _ r => r.2 = 0) (fun _ => rfl) (fun _ _ _ _ ih => ih) (fun _ _ _ _ ih => ih) q p w hw

/-- The rounds do not round up. -/
theorem le_exact (h : FloorRounds guard fall a c fits) {q p : Nat} {w : Int} (hw : fits q p w) :
    (rescale guard (· * a) fall q p w).1 * c ^ q ≤ w * a ^ p := by
  refine h.induction (motive := fun q p w r => r.1 * c ^ q ≤ w * a ^ p) (fun w => by simp) (fun q p w r ih => ?_)
    (fun q p w r ih => ?_) q p w hw
  · rwa [pow_succ', ← mul_assoc]
  · have hfloor : w / c * c ≤ w := Int.ediv_mul_le w h.c_pos.ne'
    calc r.1 * c ^ (q + 1) = r.1 * c ^ q * c := by rw [pow_succ, mul_assoc]
      _ ≤ w / c * a ^ p * c := mul_le_mul_of_nonneg_right ih h.c_pos.le
      _ = w / c * c * a ^ p := by ring
      _ ≤ w * a ^ p := mul_le_mul_of_nonneg_right hfloor (pow_pos h.a_pos p).le

/-- They lose the most where all the divisions come first. -/
theorem exact_le (h : FloorRounds guard fall a c fits) {q p : Nat} {w : Int} (hw : fits q p w) :
    w * a ^ p ≤ (rescale guard (· * a) fall q p w).1 * c ^ q + (c ^ q - 1) * a ^ p := by
  refine h.induction (motive := fun q p w r => w * a ^ p ≤ r.1 * c ^ q + (c ^ q - 1) * a ^ p) (fun w => by simp)
    (fun q p w r ih => ?_) (fun q p w r ih => ?_) q p w hw
  · have hc : 0 ≤ c ^ q - 1 := by have := pow_pos h.c_pos q; omega
    have ha : a ^ p ≤ a ^ (p + 1) := pow_le_pow_right₀ h.a_pos (Nat.le_succ p)
    calc w * a ^ (p + 1) = w * a * a ^ p := by rw [pow_succ', mul_assoc]
      _ ≤ r.1 * c ^ q + (c ^ q - 1) * a ^ p := ih
      _ ≤ r.1 * c ^ q + (c ^ q - 1) * a ^ (p + 1) := Int.add_le_add_left (mul_le_mul_of_nonneg_left ha hc) _
  · have hfloor : w ≤ w / c * c + (c - 1) := by have := Int.lt_ediv_add_one_mul_self w h.c_pos; linarith
    calc w * a ^ p ≤ (w / c * c + (c - 1)) * a ^ p := mul_le_mul_of_nonneg_right hfloor (pow_pos h.a_pos p).le
      _ = (w / c * a ^ p) * c + (c - 1) * a ^ p := by ring
      _ ≤ (r.1 * c ^ q + (c ^ q - 1) * a ^ p) * c + (c - 1) * a ^ p :=
        Int.add_le_add_right (mul_le_mul_of_nonneg_right ih h.c_pos.le) _
      _ = r.1 * c ^ (q + 1) + (c ^ (q + 1) - 1) * a ^ p := by ring

/-- They are exact where every division is. -/
theorem exact_of_dvd (h : FloorRounds guard fall a c fits) {q p : Nat} {w : Int} (hw : fits q p w) (hdvd : c ^ q ∣ w) :
    (rescale guard (· * a) fall q p w).1 * c ^ q = w * a ^ p := by
  refine h.induction (motive := fun q p w r => c ^ q ∣ w → r.1 * c ^ q = w * a ^ p) (fun w _ => by simp)
    (fun q p w r ih hdvd => ?_) (fun q p w r ih hdvd => ?_) q p w hw hdvd
  · rw [ih (hdvd.mul_right a), pow_succ', mul_assoc]
  · obtain ⟨u, rfl⟩ := hdvd
    have hquot : c ^ (q + 1) * u / c = c ^ q * u := by
      rw [pow_succ', mul_assoc, Int.mul_ediv_cancel_left _ h.c_pos.ne']
    rw [hquot] at ih
    rw [pow_succ, ← mul_assoc, ih (dvd_mul_right _ _)]
    ring

/-- A division before the multiplications, for a value whose guard fails. -/
theorem rescale_div (h : FloorRounds guard fall a c fits) {q p : Nat} {w : Int} (hw : fits (q + 1) p w)
    (hguard : guard w = false) :
    rescale guard (· * a) fall (q + 1) p w = rescale guard (· * a) fall q p (w / c) := by
  rw [rescale_fall hguard, h.fall_eq hw]

/-- The rounds keep the order of the working values, when they keep it across a bound of the guard. Next to the bound the last
value that passes, multiplied, is `t`, and the first that does not, divided, is `u`: `t` divided meets `u` multiplied. -/
theorem mono (h : FloorRounds guard fall a c fits)
    (upper : ∀ {q p w w'}, fits (q + 1) (p + 1) w → fits (q + 1) (p + 1) w' →
      guard w = true → guard w' = false → w ≤ w' →
      ∃ t u, guard t = false ∧ guard u = true ∧ fits (q + 1) p t ∧ fits q (p + 1) u ∧
        w * a ≤ t ∧ t / c ≤ u * a ∧ u ≤ w' / c)
    (lower : ∀ {q p w w'}, fits (q + 1) (p + 1) w → fits (q + 1) (p + 1) w' →
      guard w = false → guard w' = true → w ≤ w' →
      ∃ t u, guard t = false ∧ guard u = true ∧ fits (q + 1) p t ∧ fits q (p + 1) u ∧
        w / c ≤ u ∧ u * a ≤ t / c ∧ t ≤ w' * a)
    {q p : Nat} {w w' : Int} (hle : w ≤ w') (hw : fits q p w) (hw' : fits q p w') :
    (rescale guard (· * a) fall q p w).1 ≤ (rescale guard (· * a) fall q p w').1 := by
  have hmul {w w' : Int} (hle : w ≤ w') : w * a ≤ w' * a := mul_le_mul_of_nonneg_right hle h.a_pos.le
  have hdiv {w w' : Int} (hle : w ≤ w') : w / c ≤ w' / c := Int.ediv_le_ediv h.c_pos hle
  induction q generalizing p w w' with
  | zero =>
    induction p generalizing w w' with
    | zero => exact hle
    | succ p ih =>
      rw [rescale_prefer (h.ends hw), rescale_prefer (h.ends hw')]
      exact ih (hmul hle) (h.fits_mul hw (h.ends hw)) (h.fits_mul hw' (h.ends hw'))
  | succ q ihq =>
    induction p generalizing w w' with
    | zero =>
      rw [rescale_fall_spent, rescale_fall_spent, h.fall_eq hw, h.fall_eq hw']
      exact ihq (hdiv hle) (h.fits_div hw) (h.fits_div hw')
    | succ p ihp =>
      cases hg : guard w <;> cases hg' : guard w'
      case false.false =>
        rw [h.rescale_div hw hg, h.rescale_div hw' hg']
        exact ihq (hdiv hle) (h.fits_div hw) (h.fits_div hw')
      case true.true =>
        rw [rescale_prefer hg, rescale_prefer hg']
        exact ihp (hmul hle) (h.fits_mul hw hg) (h.fits_mul hw' hg')
      case true.false =>
        obtain ⟨t, u, hgt, hgu, ht, hu, hwt, htu, huw⟩ := upper hw hw' hg hg' hle
        calc (rescale guard (· * a) fall (q + 1) (p + 1) w).1
            = (rescale guard (· * a) fall (q + 1) p (w * a)).1 := by rw [rescale_prefer hg]
          _ ≤ (rescale guard (· * a) fall (q + 1) p t).1 := ihp hwt (h.fits_mul hw hg) ht
          _ = (rescale guard (· * a) fall q p (t / c)).1 := by rw [h.rescale_div ht hgt]
          _ ≤ (rescale guard (· * a) fall q p (u * a)).1 := ihq htu (h.fits_div ht) (h.fits_mul hu hgu)
          _ = (rescale guard (· * a) fall q (p + 1) u).1 := by rw [rescale_prefer hgu]
          _ ≤ (rescale guard (· * a) fall q (p + 1) (w' / c)).1 := ihq huw hu (h.fits_div hw')
          _ = (rescale guard (· * a) fall (q + 1) (p + 1) w').1 := by rw [h.rescale_div hw' hg']
      case false.true =>
        obtain ⟨t, u, hgt, hgu, ht, hu, hwu, hut, htw⟩ := lower hw hw' hg hg' hle
        calc (rescale guard (· * a) fall (q + 1) (p + 1) w).1
            = (rescale guard (· * a) fall q (p + 1) (w / c)).1 := by rw [h.rescale_div hw hg]
          _ ≤ (rescale guard (· * a) fall q (p + 1) u).1 := ihq hwu (h.fits_div hw) hu
          _ = (rescale guard (· * a) fall q p (u * a)).1 := by rw [rescale_prefer hgu]
          _ ≤ (rescale guard (· * a) fall q p (t / c)).1 := ihq hut (h.fits_mul hu hgu) (h.fits_div ht)
          _ = (rescale guard (· * a) fall (q + 1) p t).1 := by rw [h.rescale_div ht hgt]
          _ ≤ (rescale guard (· * a) fall (q + 1) p (w' * a)).1 := ihp htw ht (h.fits_mul hw' hg')
          _ = (rescale guard (· * a) fall (q + 1) (p + 1) w').1 := by rw [rescale_prefer hg']

end FloorRounds

end Sys2Proof.Machine
end

section
/-! The rounds of IQ2DEC: they end, round down by a bounded loss, and keep the order (40_converter.md R98, R99, R102). -/

namespace Sys2Proof.Machine

theorem fifthGuard_eq_false_iff (w : Int) : fifthGuard w = false ↔ w ≤ -6553 ∨ 6553 ≤ w := by
  rw [Bool.eq_false_iff, ne_eq, fifthGuard_iff]; omega

/-- A working value that both budgets of IQ2DEC suffice for: divided by 2 throughout, its magnitude is at most an `n` that all the
multiplications by 5 leave within 5 * 6552. -/
def iqFits (q p : Nat) (w : Int) : Prop := ∃ n : Int, n * 5 ^ p ≤ 32760 ∧ -(n * 2 ^ q) ≤ w ∧ w ≤ n * 2 ^ q

theorem iqFits_between {q p : Nat} {w x : Int} (h : iqFits q p w) (hx : |x| ≤ |w|) : iqFits q p x := by
  obtain ⟨n, hn, hlo, hhi⟩ := h
  obtain ⟨hxlo, hxhi⟩ := abs_le.mp (hx.trans (abs_le.mpr ⟨hlo, hhi⟩))
  exact ⟨n, hn, hxlo, hxhi⟩

theorem iqFits_mul {q p : Nat} {w : Int} (h : iqFits q (p + 1) w) : iqFits q p (w * 5) := by
  obtain ⟨n, hn, hlo, hhi⟩ := h
  refine ⟨n * 5, by rwa [mul_assoc, ← pow_succ'], ?_, ?_⟩
  · rw [mul_right_comm]; omega
  · rw [mul_right_comm]; omega

theorem iqFits_div {q p : Nat} {w : Int} (h : iqFits (q + 1) p w) : iqFits q p (w / 2) := by
  obtain ⟨n, hn, hlo, hhi⟩ := h
  rw [pow_succ, ← mul_assoc] at hlo hhi
  exact ⟨n, hn, by omega, by omega⟩

theorem fifthGuard_of_iqFits {p : Nat} {w : Int} (h : iqFits 0 (p + 1) w) : fifthGuard w = true := by
  obtain ⟨n, hn, hlo, hhi⟩ := h
  have hfive : (5 : Int) ≤ 5 ^ (p + 1) := le_self_pow₀ (by decide) (Nat.succ_ne_zero p)
  rw [fifthGuard_iff]
  constructor <;> nlinarith

/-- The rounds of IQ2DEC (40_converter.md R98). -/
theorem iqRounds : FloorRounds fifthGuard asr1 5 2 iqFits where
  a_pos := by decide
  c_pos := by decide
  fall_eq _ := rfl
  fits_mul h _ := iqFits_mul h
  fits_div := iqFits_div
  ends := fifthGuard_of_iqFits

/-- Next to the guard's bounds lie 6552 and -6552: multiplied first and divided first they give the same. -/
theorem iqRounds_mono {q p : Nat} {w w' : Int} (hle : w ≤ w') (hw : iqFits q p w) (hw' : iqFits q p w') :
    (rescale fifthGuard (· * 5) asr1 q p w).1 ≤ (rescale fifthGuard (· * 5) asr1 q p w').1 := by
  refine iqRounds.mono (fun {q p w w'} _ hw' hg hg' hle => ?_) (fun {q p w w'} hw _ hg hg' hle => ?_) hle hw hw'
  · rw [fifthGuard_iff] at hg
    rw [fifthGuard_eq_false_iff] at hg'
    have hbound : iqFits (q + 1) (p + 1) 6552 := iqFits_between hw' (abs_le_abs (by omega) (by omega))
    exact ⟨6552 * 5, 6552 / 2, by decide, by decide, iqFits_mul hbound, iqFits_div hbound, by omega, by decide, by omega⟩
  · rw [fifthGuard_iff] at hg'
    rw [fifthGuard_eq_false_iff] at hg
    have hbound : iqFits (q + 1) (p + 1) (-6552) := by
      refine iqFits_between hw ?_
      rw [abs_neg, ← abs_neg w]
      exact abs_le_abs (by omega) (by omega)
    exact ⟨-6552 * 5, -6552 / 2, by decide, by decide, iqFits_mul hbound, iqFits_div hbound, by omega, by decide, by omega⟩

section
variable {d : Nat} {v : Int}

theorem iqFits_start (hd : d ≤ 2) (hlo : -32768 < v) (hhi : v < 32767) : iqFits (7 - d) d v := by
  obtain rfl | rfl | rfl : d = 0 ∨ d = 1 ∨ d = 2 := by omega
  · exact ⟨256, by decide, by omega, by omega⟩
  · exact ⟨512, by decide, by omega, by omega⟩
  · exact ⟨1024, by decide, by omega, by omega⟩

theorem iq2decRounds_spent (hd : d ≤ 2) (hlo : -32768 < v) (hhi : v < 32767) : (iq2decRounds v d).2 = 0 :=
  iqRounds.spent (iqFits_start hd hlo hhi)

theorem iq2dec_eq (hd : d ≤ 2) (hlo : -32768 < v) (hhi : v < 32767) : iq2dec v d = (iq2decRounds v d).1 := by
  rw [iq2dec_converts hd hlo hhi, finishRounds_done (iq2decRounds_spent hd hlo hhi)]

theorem iq2dec_le_exact (hd : d ≤ 2) (hlo : -32768 < v) (hhi : v < 32767) : iq2dec v d * 2 ^ (7 - d) ≤ v * 5 ^ d := by
  rw [iq2dec_eq hd hlo hhi]
  exact iqRounds.le_exact (iqFits_start hd hlo hhi)

theorem iq2dec_exact (hd : d ≤ 2) (hlo : -32768 < v) (hhi : v < 32767) (hdvd : 2 ^ (7 - d) ∣ v) :
    iq2dec v d * 2 ^ (7 - d) = v * 5 ^ d := by
  rw [iq2dec_eq hd hlo hhi]
  exact iqRounds.exact_of_dvd (iqFits_start hd hlo hhi) hdvd

theorem iq2dec_mono {v' : Int} (hd : d ≤ 2) (hlo : -32768 < v) (hle : v ≤ v') (hhi : v' < 32767) :
    iq2dec v d ≤ iq2dec v' d := by
  rw [iq2dec_eq hd hlo (by omega), iq2dec_eq hd (by omega) hhi]
  exact iqRounds_mono hle (iqFits_start hd hlo (by omega)) (iqFits_start hd (by omega) hhi)

end

theorem iqFits_zero {q : Nat} {w : Int} (h : -32760 ≤ w ∧ w ≤ 32760) : iqFits q 0 w := by
  have hpow : (1 : Int) ≤ 2 ^ q := one_le_pow₀ (by decide)
  exact ⟨32760, by decide, by omega, by omega⟩

theorem iqRounds_mul {q p : Nat} {w : Int} (h : -6553 < w ∧ w < 6553) :
    rescale fifthGuard (· * 5) asr1 q (p + 1) w = rescale fifthGuard (· * 5) asr1 q p (w * 5) :=
  rescale_prefer ((fifthGuard_iff w).mpr h)

theorem iqRounds_div {q p : Nat} {w : Int} (h : w ≤ -6553 ∨ 6553 ≤ w) :
    rescale fifthGuard (· * 5) asr1 (q + 1) p w = rescale fifthGuard (· * 5) asr1 q p (w / 2) :=
  rescale_fall ((fifthGuard_eq_false_iff w).mpr h)

/-- The loss with one multiplication left, which comes first. -/
theorem iqRounds_loss_mul {q : Nat} {w : Int} (h : -6553 < w ∧ w < 6553) :
    w * 5 - (rescale fifthGuard (· * 5) asr1 q 1 w).1 * 2 ^ q ≤ 2 ^ q - 1 := by
  have hloss := iqRounds.exact_le (q := q) (p := 0) (w := w * 5) (iqFits_zero (by omega))
  rw [iqRounds_mul h]
  omega

/-- The loss with one multiplication left, which at most `m` divisions precede. -/
theorem iqRounds_loss_one {q m : Nat} {w : Int} (hm : m ≤ q) (hlo : -(6552 * 2 ^ m) ≤ w) (hhi : w ≤ 6552 * 2 ^ m) :
    w * 5 - (rescale fifthGuard (· * 5) asr1 q 1 w).1 * 2 ^ q ≤ 4 * 2 ^ m - 5 + 2 ^ q := by
  induction m generalizing q w with
  | zero =>
    have := iqRounds_loss_mul (q := q) (w := w) (by omega)
    omega
  | succ m ih =>
    by_cases hguard : -6553 < w ∧ w < 6553
    · have := iqRounds_loss_mul (q := q) hguard
      have : (1 : Int) ≤ 2 ^ (m + 1) := one_le_pow₀ (by decide)
      omega
    · obtain ⟨q, rfl⟩ := Nat.exists_eq_succ_of_ne_zero (show q ≠ 0 by omega)
      rw [iqRounds_div (by omega), pow_succ, pow_succ, ← mul_assoc]
      have := ih (q := q) (w := w / 2) (by omega) (by omega) (by omega)
      omega

/-- The loss with two multiplications left, one of which comes first. -/
theorem iqRounds_loss_two_mul {q m : Nat} {w : Int} (hm : m ≤ q) (hw : -6553 < w ∧ w < 6553)
    (hlo : -(6552 * 2 ^ m) ≤ w * 5) (hhi : w * 5 ≤ 6552 * 2 ^ m) :
    w * 25 - (rescale fifthGuard (· * 5) asr1 q 2 w).1 * 2 ^ q ≤ 4 * 2 ^ m - 5 + 2 ^ q := by
  have hloss := iqRounds_loss_one hm hlo hhi
  rw [iqRounds_mul hw]
  omega

/-- The loss at two decimals after the divisions before the first multiplication, of which there are none to three. -/
theorem iq2decRounds_two_loss {v : Int} (hlo : -32768 < v) (hhi : v < 32767) :
    v * 25 - (iq2decRounds v 2).1 * 32 ≤ 59 ∨ v / 2 * 25 - (iq2decRounds v 2).1 * 16 ≤ 43 ∨
    ((v / 2 ≤ -6553 ∨ 6553 ≤ v / 2) ∧ v / 4 * 25 - (iq2decRounds v 2).1 * 8 ≤ 35) ∨
    ((v / 4 ≤ -6553 ∨ 6553 ≤ v / 4) ∧ v / 8 * 25 - (iq2decRounds v 2).1 * 4 ≤ 15) := by
  rw [iq2decRounds]
  by_cases h0 : -6553 < v ∧ v < 6553
  · exact .inl (iqRounds_loss_two_mul (q := 5) (m := 3) (by decide) h0 (by omega) (by omega))
  rw [iqRounds_div (by omega)]
  by_cases h1 : -6553 < v / 2 ∧ v / 2 < 6553
  · exact .inr (.inl (iqRounds_loss_two_mul (q := 4) (m := 3) (by decide) h1 (by omega) (by omega)))
  rw [iqRounds_div (by omega), show v / 2 / 2 = v / 4 by omega]
  by_cases h2 : -6553 < v / 4 ∧ v / 4 < 6553
  · exact .inr (.inr (.inl ⟨by omega, iqRounds_loss_two_mul (q := 3) (m := 3) (by decide) h2 (by omega) (by omega)⟩))
  rw [iqRounds_div (by omega), show v / 4 / 2 = v / 8 by omega]
  exact .inr (.inr (.inr ⟨by omega,
    iqRounds_loss_two_mul (q := 2) (m := 2) (by decide) (by omega) (by omega) (by omega)⟩))

section
variable {v : Int}

theorem iq2dec_zero_loss (hlo : -32768 < v) (hhi : v < 32767) : v - iq2dec v 0 * 128 ≤ 127 := by
  have hloss := iqRounds.exact_le (iqFits_start (d := 0) (by decide) hlo hhi)
  rw [iq2dec_eq (by decide) hlo hhi, iq2decRounds]
  omega

theorem iq2dec_one_loss (hlo : -32768 < v) (hhi : v < 32767) : v * 5 - iq2dec v 1 * 64 ≤ 91 := by
  rw [iq2dec_eq (by decide) hlo hhi]
  exact iqRounds_loss_one (q := 6) (m := 3) (by decide) (by omega) (by omega)

theorem iq2dec_two_loss (hlo : -32768 < v) (hhi : v < 32767) : v * 25 - iq2dec v 2 * 32 ≤ 295 := by
  have := iq2decRounds_two_loss hlo hhi
  rw [iq2dec_eq (by decide) hlo hhi]
  omega

end

/-- Settles O32: every value IQ2DEC converts fits the budgets. -/
theorem iq2decNeverStalls : Obligations.Iq2decNeverStalls := by
  unfold Obligations.Iq2decNeverStalls
  intro d v hd hlo hhi
  exact iq2decRounds_spent hd hlo hhi

/-- Settles O33: rounding down from above, the losses from below; the order is kept by `iqRounds_mono`. -/
theorem iq2decErrorBoundsAndMonotone : Obligations.Iq2decErrorBoundsAndMonotone := by
  unfold Obligations.Iq2decErrorBoundsAndMonotone
  constructor
  · intro v hlo hhi
    have hfloor0 := iq2dec_le_exact (d := 0) (by decide) hlo hhi
    have hfloor1 := iq2dec_le_exact (d := 1) (by decide) hlo hhi
    have hfloor2 := iq2dec_le_exact (d := 2) (by decide) hlo hhi
    have hloss0 := iq2dec_zero_loss hlo hhi
    have hloss1 := iq2dec_one_loss hlo hhi
    have hloss2 := iq2dec_two_loss hlo hhi
    rw [Int.fdiv_eq_ediv_of_nonneg v (by decide)]
    simp only [Nat.reduceSub, Int.reducePow] at *
    refine ⟨?_, ?_, ?_, ?_, ?_, ?_, ?_⟩ <;> omega
  · intro d v hd hlo hhi
    exact iq2dec_mono hd hlo (by omega) hhi

end Sys2Proof.Machine
end

section
/-! The rounds of DEC2IQ over values that are not negative: they end, round down by a bounded loss, and keep the order
(40_converter.md R89, R92, R94, R95). -/

namespace Sys2Proof.Machine

theorem halfGuard_eq_false_iff (w : Int) : halfGuard w = false ↔ w ≤ -16384 ∨ 16383 ≤ w := by
  rw [Bool.eq_false_iff, ne_eq, halfGuard_iff]; omega

/-- A working value of DEC2IQ that is not negative and whose exact result lies below 2 * HALF_MAX. -/
def decFits (q p : Nat) (w : Int) : Prop := 0 ≤ w ∧ w * 2 ^ p < 32766 * 5 ^ q

/-- The rounds of DEC2IQ (40_converter.md R89) over values that are not negative. -/
theorem decRounds : FloorRounds halfGuard tdiv5 2 5 decFits where
  a_pos := by decide
  c_pos := by decide
  fall_eq h := tdiv5_of_nonneg h.1
  fits_mul {q p w} h _ := ⟨by have := h.1; omega, by rw [mul_assoc, ← pow_succ']; exact h.2⟩
  fits_div {q p w} h := by
    obtain ⟨hw, hfit⟩ := h
    have hpow : (0 : Int) < 2 ^ p := by positivity
    rw [pow_succ] at hfit
    exact ⟨by omega, by nlinarith [Int.ediv_mul_le w (show (5 : Int) ≠ 0 by decide)]⟩
  ends {p w} h := by
    obtain ⟨hw, hfit⟩ := h
    have hpow : (1 : Int) ≤ 2 ^ p := one_le_pow₀ (by decide)
    rw [pow_succ, pow_zero] at hfit
    rw [halfGuard_iff]
    constructor
    · omega
    · nlinarith

theorem decFits_of_le {q p : Nat} {w x : Int} (h : decFits q p w) (hx : 0 ≤ x) (hle : x ≤ w) : decFits q p x :=
  ⟨hx, (mul_le_mul_of_nonneg_right hle (by positivity)).trans_lt h.2⟩

/-- Next to the guard's upper bound lies 16382: multiplied first and divided first it gives the same. -/
theorem decRounds_mono {q p : Nat} {w w' : Int} (hle : w ≤ w') (hw : decFits q p w) (hw' : decFits q p w') :
    (rescale halfGuard (· * 2) tdiv5 q p w).1 ≤ (rescale halfGuard (· * 2) tdiv5 q p w').1 := by
  refine decRounds.mono (fun {q p w w'} _ hw' hg hg' hle => ?_) (fun {q p w w'} hw _ hg hg' hle => ?_) hle hw hw'
  · rw [halfGuard_iff] at hg
    rw [halfGuard_eq_false_iff] at hg'
    have hbound : decFits (q + 1) (p + 1) 16382 := decFits_of_le hw' (by decide) (by omega)
    exact ⟨16382 * 2, 16382 / 5, by decide, by decide, decRounds.fits_mul hbound (by decide), decRounds.fits_div hbound,
      by omega, by decide, by omega⟩
  · have hnonneg : 0 ≤ w := hw.1
    rw [halfGuard_eq_false_iff] at hg
    rw [halfGuard_iff] at hg'
    omega

theorem decRounds_mul {q p : Nat} {w : Int} (h : -16384 < w ∧ w < 16383) :
    rescale halfGuard (· * 2) tdiv5 q (p + 1) w = rescale halfGuard (· * 2) tdiv5 q p (w * 2) :=
  rescale_prefer ((halfGuard_iff w).mpr h)

theorem decRounds_div {q p : Nat} {w : Int} (h : 16383 ≤ w) :
    rescale halfGuard (· * 2) tdiv5 (q + 1) p w = rescale halfGuard (· * 2) tdiv5 q p (w / 5) := by
  rw [rescale_fall ((halfGuard_eq_false_iff w).mpr (.inr h)), tdiv5_of_nonneg (by omega)]

section
variable {d : Nat} {v lo hi : Int}

/-- Every in-range value that is not negative fits, but for 25599/2. -/
theorem decFits_start (h : validRange d = some (lo, hi)) (hv : 0 ≤ v) (hhi : v ≤ hi) (hne : v ≠ 25599) :
    decFits d (7 - d) v := by
  refine ⟨hv, ?_⟩
  obtain ⟨rfl, -, rfl⟩ | ⟨rfl, -, rfl⟩ | ⟨rfl, -, rfl⟩ := validRange_iff.mp h <;> omega

/-- 40_converter.md R90: the upper bound 25599/2 returns 32760. -/
theorem dec2iqRounds_25599 : dec2iqRounds 25599 2 = (32760, 0) := by decide

theorem dec2iqRounds_neg_16383 : dec2iqRounds (-16383) 2 = (-20968, 0) := by decide

theorem validRange_hi_le (h : validRange d = some (lo, hi)) : hi ≤ 25599 := by
  rcases validRange_iff.mp h with h | h | h <;> omega

theorem decimals_of_eq_25599 (h : validRange d = some (lo, hi)) (hhi : v ≤ hi) (hv : v = 25599) : d = 2 := by
  obtain ⟨rfl, -, rfl⟩ | ⟨rfl, -, rfl⟩ | ⟨rfl, -, rfl⟩ := validRange_iff.mp h <;> omega

theorem dec2iqRounds_spent_of_nonneg (h : validRange d = some (lo, hi)) (hv : 0 ≤ v) (hhi : v ≤ hi) :
    (dec2iqRounds v d).2 = 0 := by
  by_cases hne : v = 25599
  · obtain rfl := decimals_of_eq_25599 h hhi hne
    rw [hne, dec2iqRounds_25599]
  · exact decRounds.spent (decFits_start h hv hhi hne)

theorem dec2iqRounds_le_exact (h : validRange d = some (lo, hi)) (hv : 0 ≤ v) (hhi : v ≤ hi) :
    (dec2iqRounds v d).1 * 5 ^ d ≤ v * 2 ^ (7 - d) := by
  by_cases hne : v = 25599
  · obtain rfl := decimals_of_eq_25599 h hhi hne
    rw [hne, dec2iqRounds_25599]
    decide
  · exact decRounds.le_exact (decFits_start h hv hhi hne)

theorem dec2iqRounds_exact_of_nonneg (h : validRange d = some (lo, hi)) (hv : 0 ≤ v) (hhi : v ≤ hi) (hdvd : 5 ^ d ∣ v) :
    (dec2iqRounds v d).1 * 5 ^ d = v * 2 ^ (7 - d) := by
  have hne : v ≠ 25599 := by
    rintro rfl
    obtain rfl := decimals_of_eq_25599 h hhi rfl
    exact absurd hdvd (by decide)
  exact decRounds.exact_of_dvd (decFits_start h hv hhi hne) hdvd

theorem dec2iqRounds_mono (h : validRange d = some (lo, hi)) (hv : 0 ≤ v) (hhi : v + 1 ≤ hi) :
    (dec2iqRounds v d).1 ≤ (dec2iqRounds (v + 1) d).1 := by
  by_cases hne : v + 1 = 25599
  · obtain rfl := decimals_of_eq_25599 h hhi hne
    obtain rfl : v = 25598 := by omega
    decide
  · have hmax := validRange_hi_le h
    exact decRounds_mono (by omega) (decFits_start h hv (by omega) (by omega)) (decFits_start h (by omega) hhi hne)

end

/-- The loss at one decimal, where at least three doublings precede the division. -/
theorem dec2iqRounds_one_loss {v : Int} (hv : 0 ≤ v) (hhi : v ≤ 2559) : v * 64 - (dec2iqRounds v 1).1 * 5 ≤ 32 := by
  have hloss := decRounds.exact_le (q := 1) (p := 3) (w := v * 2 * 2 * 2) ⟨by omega, by omega⟩
  rw [dec2iqRounds, decRounds_mul (by omega), decRounds_mul (by omega), decRounds_mul (by omega)]
  omega

/-- The loss with one division left, which at least two doublings precede. -/
theorem decRounds_loss_one {p : Nat} {w : Int} (hw : 0 ≤ w) (hhi : w < 8192) (hfit : w * 2 ^ (p + 2) < 163830) :
    w * 2 ^ (p + 2) - (rescale halfGuard (· * 2) tdiv5 1 (p + 2) w).1 * 5 ≤ 4 * 2 ^ p := by
  have hpow : w * 2 ^ (p + 2) = w * 2 * 2 * 2 ^ p := by ring
  rw [hpow] at hfit ⊢
  have hloss := decRounds.exact_le (q := 1) (p := p) (w := w * 2 * 2) ⟨by omega, hfit⟩
  rw [decRounds_mul (by omega), decRounds_mul (by omega)]
  omega

/-- The loss at two decimals, by the doublings before the first division: two or more, one, or none. -/
theorem dec2iqRounds_two_loss {v : Int} (hv : 0 ≤ v) (hhi : v ≤ 25599) :
    (v < 8192 ∧ v * 32 - (dec2iqRounds v 2).1 * 25 ≤ 192) ∨
    (8192 ≤ v ∧ v < 16383 ∧ v * 32 - (dec2iqRounds v 2).1 * 25 ≤ 144) ∨
    (16383 ≤ v ∧ v * 32 - (dec2iqRounds v 2).1 * 25 ≤ 288) := by
  simp only [dec2iqRounds, Nat.reduceSub]
  by_cases h0 : v < 16383
  · rw [decRounds_mul (by omega)]
    by_cases h1 : v * 2 < 16383
    · rw [decRounds_mul (by omega)]
      have hloss := decRounds.exact_le (q := 2) (p := 3) (w := v * 2 * 2) ⟨by omega, by omega⟩
      refine .inl ⟨by omega, by omega⟩
    · rw [decRounds_div (by omega)]
      have hloss := decRounds_loss_one (p := 2) (w := v * 2 / 5) (by omega) (by omega) (by omega)
      simp only [Nat.reduceAdd] at hloss
      refine .inr (.inl ⟨by omega, by omega, by omega⟩)
  · rw [decRounds_div (by omega)]
    have hloss := decRounds_loss_one (p := 3) (w := v / 5) (by omega) (by omega) (by omega)
    simp only [Nat.reduceAdd] at hloss
    refine .inr (.inr ⟨by omega, by omega⟩)

end Sys2Proof.Machine
end

section
/-! DEC2IQ over every value in range: its rounds are odd but at the guard's own bound, so what holds of values that are not
negative carries over to the others (40_converter.md R92, R94, R95). -/

namespace Sys2Proof.Machine

open Sys2Proof.Safety

/-- The guard of the doublings is symmetric but at its own bound: -16383 passes and 16383 does not. -/
theorem halfGuard_neg {w : Int} (h : w.natAbs ≠ 16383) : halfGuard (-w) = halfGuard w := by
  rw [Bool.eq_iff_iff, halfGuard_iff, halfGuard_iff]
  omega

theorem preferSteps_neg {w : Int} (h : w.natAbs ≠ 16383) (p : Nat) :
    preferSteps halfGuard (· * 2) p (-w) =
      (-(preferSteps halfGuard (· * 2) p w).1, (preferSteps halfGuard (· * 2) p w).2) := by
  induction p generalizing w with
  | zero => rfl
  | succ p ih =>
    cases hguard : halfGuard w with
    | true =>
      rw [preferSteps_pass hguard, preferSteps_pass ((halfGuard_neg h).trans hguard), Int.neg_mul]
      exact ih (by omega)
    | false => rw [preferSteps_blocked hguard, preferSteps_blocked ((halfGuard_neg h).trans hguard)]

/-- Past the start no working value is the guard's bound: a division leaves at most 32767 / 5, and a doubling an even value. -/
theorem rescale_neg {w : Int} (h : w.natAbs ≠ 16383) (hw : isInt16 w) (q p : Nat) :
    rescale halfGuard (· * 2) tdiv5 q p (-w) =
      (-(rescale halfGuard (· * 2) tdiv5 q p w).1, (rescale halfGuard (· * 2) tdiv5 q p w).2) := by
  induction q generalizing p w with
  | zero => exact preferSteps_neg h p
  | succ q ih =>
    have hkept : isInt16 (preferSteps halfGuard (· * 2) p w).1 :=
      preferSteps_keeps isInt16 halfGuard _ (fun _ _ => isInt16_double) p w hw
    have hsmall := natAbs_tdiv5_le hkept
    rw [rescale, rescale, preferSteps_neg h, tdiv5_neg]
    exact ih (by omega) (isInt16_tdiv5 hkept) _

section
variable {d : Nat} {v lo hi : Int}

theorem validRange_lo (h : validRange d = some (lo, hi)) : lo = -hi - 1 := by
  rcases validRange_iff.mp h with h | h | h <;> omega

theorem dec2iqRounds_neg (h : validRange d = some (lo, hi)) (hv : v.natAbs ≤ hi) (hne : v.natAbs ≠ 16383) :
    dec2iqRounds (-v) d = (-(dec2iqRounds v d).1, (dec2iqRounds v d).2) :=
  rescale_neg hne (by have := validRange_hi_le h; rw [isInt16_iff]; omega) d (7 - d)

/-- An in-range value above the lower bound is not negative, or it is the one exception -16383/2, or the negative of a value for
which the rounds are odd. -/
theorem inRange_cases (h : validRange d = some (lo, hi)) (hlo : lo < v) :
    0 ≤ v ∨ (v = -16383 ∧ d = 2) ∨
      ∃ u, 0 < u ∧ u ≤ hi ∧ v = -u ∧ dec2iqRounds v d = (-(dec2iqRounds u d).1, (dec2iqRounds u d).2) := by
  have hrange := validRange_lo h
  by_cases hneg : 0 ≤ v
  · exact .inl hneg
  by_cases hv : v = -16383
  · refine .inr (.inl ⟨hv, ?_⟩)
    rcases validRange_iff.mp h with h | h | h <;> omega
  refine .inr (.inr ⟨-v, by omega, by omega, by omega, ?_⟩)
  have hodd := dec2iqRounds_neg h (v := -v) (by omega) (by omega)
  rwa [Int.neg_neg] at hodd

theorem dec2iqRounds_spent (h : validRange d = some (lo, hi)) (hlo : lo < v) (hhi : v ≤ hi) : (dec2iqRounds v d).2 = 0 := by
  obtain hv | ⟨rfl, rfl⟩ | ⟨u, hu, huhi, -, hodd⟩ := inRange_cases h hlo
  · exact dec2iqRounds_spent_of_nonneg h hv hhi
  · rw [dec2iqRounds_neg_16383]
  · rw [hodd]
    exact dec2iqRounds_spent_of_nonneg h hu.le huhi

/-- 40_converter.md R92: at the lower bound one doubling is left that its guard does not let pass. -/
theorem dec2iqRounds_lo (h : validRange d = some (lo, hi)) : dec2iqRounds lo d = (-16384, 1) := by
  obtain ⟨rfl, rfl, -⟩ | ⟨rfl, rfl, -⟩ | ⟨rfl, rfl, -⟩ := validRange_iff.mp h <;> decide

variable {p : Config.Params}

theorem dec2iq_lo (h : validRange d = some (lo, hi)) : dec2iq p lo d = int16Min := by
  have := validRange_lo h
  have : lo ≤ hi := by rcases validRange_iff.mp h with h | h | h <;> omega
  rw [dec2iq_inRange h le_rfl this, dec2iqRounds_lo h]
  decide

theorem dec2iq_eq (h : validRange d = some (lo, hi)) (hlo : lo < v) (hhi : v ≤ hi) :
    dec2iq p v d = (dec2iqRounds v d).1 := by
  rw [dec2iq_inRange h hlo.le hhi, finishRounds_done (dec2iqRounds_spent h hlo hhi)]

theorem dec2iqRounds_exact (h : validRange d = some (lo, hi)) (hlo : lo < v) (hhi : v ≤ hi) (hdvd : 5 ^ d ∣ v) :
    (dec2iqRounds v d).1 * 5 ^ d = v * 2 ^ (7 - d) := by
  obtain hv | ⟨rfl, rfl⟩ | ⟨u, hu, huhi, rfl, hodd⟩ := inRange_cases h hlo
  · exact dec2iqRounds_exact_of_nonneg h hv hhi hdvd
  · exact absurd hdvd (by decide)
  · rw [hodd, Int.neg_mul, Int.neg_mul, dec2iqRounds_exact_of_nonneg h hu.le huhi (dvd_neg.mp hdvd)]

/-- Every division truncates toward zero, so the result is on zero's side of the exact one, and no further from it than over
values that are not negative (40_converter.md R94), or than the 56 that the exception -16383/2 loses. -/
theorem dec2iq_loss {L : Int} (h : validRange d = some (lo, hi)) (hL : d = 2 → 56 ≤ L)
    (hloss : ∀ u, 0 ≤ u → u ≤ hi → u * 2 ^ (7 - d) - (dec2iqRounds u d).1 * 5 ^ d ≤ L)
    (hlo : lo < v) (hhi : v ≤ hi) :
    (0 ≤ v ∧ 0 ≤ v * 2 ^ (7 - d) - dec2iq p v d * 5 ^ d ∧ v * 2 ^ (7 - d) - dec2iq p v d * 5 ^ d ≤ L) ∨
    (v < 0 ∧ -L ≤ v * 2 ^ (7 - d) - dec2iq p v d * 5 ^ d ∧ v * 2 ^ (7 - d) - dec2iq p v d * 5 ^ d ≤ 0) := by
  rw [dec2iq_eq h hlo hhi]
  obtain hv | ⟨rfl, rfl⟩ | ⟨u, hu, huhi, rfl, hodd⟩ := inRange_cases h hlo
  · have hfloor := dec2iqRounds_le_exact h hv hhi
    exact .inl ⟨hv, Int.sub_nonneg_of_le hfloor, hloss v hv hhi⟩
  · rw [dec2iqRounds_neg_16383]
    have := hL rfl
    exact .inr (by omega)
  · have hfloor := dec2iqRounds_le_exact h hu.le huhi
    have := hloss u hu.le huhi
    rw [hodd, Int.neg_mul, Int.neg_mul]
    exact .inr (by omega)

end

end Sys2Proof.Machine
end

section
/-! The derived facts about DEC2IQ (40_converter.md R92 to R95). -/

namespace Sys2Proof.Machine

open Sys2Proof.Safety

section
variable {d : Nat} {v lo hi : Int} {p : Config.Params}

theorem five_pow_dvd (h : (10 : Int) ^ d ∣ v * 128) : (5 : Int) ^ d ∣ v := by
  have hcoprime : IsCoprime ((5 : Int) ^ d) 128 := IsCoprime.pow_left (by norm_num)
  exact hcoprime.dvd_of_dvd_mul_right ((pow_dvd_pow_of_dvd (by decide) d).trans h)

/-- DEC2IQ is exact where the exact result is an integer, here with the common factor 2 ^ d cancelled (40_converter.md R94). -/
theorem dec2iq_exact (h : validRange d = some (lo, hi)) (hlo : lo < v) (hhi : v ≤ hi) (hdvd : (10 : Int) ^ d ∣ v * 128) :
    dec2iq p v d * 5 ^ d = v * 2 ^ (7 - d) := by
  rw [dec2iq_eq h hlo hhi, dec2iqRounds_exact h hlo hhi (five_pow_dvd hdvd)]

theorem mul_ten_pow_eq {x : Int} (hd : d ≤ 2) (h : x * 5 ^ d = v * 2 ^ (7 - d)) : x * 10 ^ d = v * 128 := by
  calc x * 10 ^ d = x * 5 ^ d * 2 ^ d := by rw [mul_assoc, ← mul_pow, show (5 : Int) * 2 = 10 from rfl]
    _ = v * 2 ^ (7 - d) * 2 ^ d := by rw [h]
    _ = v * 128 := by rw [mul_assoc, ← pow_add, Nat.sub_add_cancel (by omega), show (2 : Int) ^ 7 = 128 from rfl]

theorem dec2iq_zero (hlo : -256 ≤ v) (hhi : v ≤ 255) : dec2iq p v 0 = v * 128 := by
  obtain rfl | hlt := hlo.eq_or_lt
  · exact dec2iq_lo (d := 0) rfl
  · have := dec2iq_exact (p := p) (d := 0) rfl hlt hhi (one_dvd _)
    omega

theorem dec2iq_one_loss (hlo : -2560 < v) (hhi : v ≤ 2559) :
    (0 ≤ v ∧ 0 ≤ v * 64 - dec2iq p v 1 * 5 ∧ v * 64 - dec2iq p v 1 * 5 ≤ 32) ∨
    (v < 0 ∧ -32 ≤ v * 64 - dec2iq p v 1 * 5 ∧ v * 64 - dec2iq p v 1 * 5 ≤ 0) :=
  dec2iq_loss (d := 1) rfl (by decide) (fun _ => dec2iqRounds_one_loss) hlo hhi

theorem dec2iq_two_loss (hlo : -25600 < v) (hhi : v ≤ 25599) :
    (0 ≤ v ∧ 0 ≤ v * 32 - dec2iq p v 2 * 25 ∧ v * 32 - dec2iq p v 2 * 25 ≤ 288) ∨
    (v < 0 ∧ -288 ≤ v * 32 - dec2iq p v 2 * 25 ∧ v * 32 - dec2iq p v 2 * 25 ≤ 0) := by
  refine dec2iq_loss (d := 2) (L := 288) rfl (by decide) (fun u hu huhi => ?_) hlo hhi
  have := dec2iqRounds_two_loss hu huhi
  omega

theorem dec2iq_mono (hd : d ≤ 2) (hv : isInt16 v) (hv' : isInt16 (v + 1)) (hne : ¬ (d = 2 ∧ v = -16384)) :
    dec2iq p v d ≤ dec2iq p (v + 1) d := by
  obtain hinvalid | ⟨lo, hi, h⟩ := validRange_cases d
  · omega
  obtain hbelow | rfl | hlo := lt_trichotomy v lo
  · rw [dec2iq_below h hbelow]
    exact (isInt16_dec2iq p d hv').1
  · rw [dec2iq_lo h]
    exact (isInt16_dec2iq p d hv').1
  by_cases habove : hi < v + 1
  · rw [dec2iq_above h habove]
    exact (isInt16_dec2iq p d hv).2
  have hrange := validRange_lo h
  rw [dec2iq_eq h hlo (by omega), dec2iq_eq h (by omega) (by omega)]
  obtain hnonneg | ⟨rfl, rfl⟩ | ⟨u, hu, huhi, rfl, hodd⟩ := inRange_cases h hlo
  · exact dec2iqRounds_mono h hnonneg (by omega)
  · decide
  · have hbound : (u - 1).natAbs ≠ 16383 := by
      rcases validRange_iff.mp h with h | h | h <;> omega
    have hodd' := dec2iqRounds_neg h (v := u - 1) (by omega) hbound
    have hmono := dec2iqRounds_mono h (v := u - 1) (by omega) (by omega)
    rw [sub_add_cancel] at hmono
    rw [hodd, show -u + 1 = -(u - 1) by omega, hodd']
    exact Int.neg_le_neg hmono

theorem dec2iq_odd (h : validRange d = some (lo, hi)) (hv : v.natAbs ≤ hi) (hne : v.natAbs ≠ 16383) :
    dec2iq p (-v) d = -dec2iq p v d := by
  have hrange := validRange_lo h
  rw [dec2iq_eq h (by omega) (by omega), dec2iq_eq h (by omega) (by omega), dec2iqRounds_neg h hv hne]

end

theorem toInt_ofInt_lo {d : Nat} {lo hi : Int} (h : validRange d = some (lo, hi)) : (BitVec.ofInt 16 lo).toInt = lo := by
  obtain ⟨-, rfl, -⟩ | ⟨-, rfl, -⟩ | ⟨-, rfl, -⟩ := validRange_iff.mp h <;> rfl

theorem exec_dec2iq_lo {d : BitVec 8} {lo hi : Int} (h : validRange d.toNat = some (lo, hi)) (rsv : BitVec 4) (s : State) :
    exec (.dec2iq rsv d (BitVec.ofInt 16 lo)) s = .next { s with rsp := some 0x8000#16 } := by
  rw [exec_dec2iq, toInt_ofInt_lo h, dec2iq_lo h, int16Pattern_min, respond]

/-- Settles O27: the lower bounds are computed, and above them the rounds spend both budgets. -/
theorem dec2iqStallsAtLowerBoundsOnly : Obligations.Dec2iqStallsAtLowerBoundsOnly := by
  unfold Obligations.Dec2iqStallsAtLowerBoundsOnly
  constructor
  · intro d v lo hi h hlo hhi
    have hcases := validRange_iff.mp h
    obtain rfl | hlt := hlo.eq_or_lt
    · rw [dec2iqRounds_lo h]
      exact ⟨⟨fun _ => by omega, fun _ => by decide⟩, fun _ => rfl⟩
    · rw [ne_eq, dec2iqRounds_spent h hlt hhi]
      exact ⟨⟨fun hs => absurd rfl hs, fun _ => by omega⟩, fun hs => absurd rfl hs⟩
  · intro rsv s
    exact ⟨exec_dec2iq_lo rfl rsv s, exec_dec2iq_lo rfl rsv s, exec_dec2iq_lo rfl rsv s⟩

/-- Settles O28: with no division every step is exact. -/
theorem dec2iqWholeDegreesExact : Obligations.Dec2iqWholeDegreesExact := by
  unfold Obligations.Dec2iqWholeDegreesExact
  intro rsv v s hlo hhi
  refine ⟨?_, (isInt16_iff _).mpr (by omega), fun hne => ?_, fun hv => by rw [hv]; rfl⟩
  · rw [exec_dec2iq, show BitVec.toNat (0 : BitVec 8) = 0 from rfl, dec2iq_zero hlo hhi, respond]
  · have hlt : -256 < v.toInt := by omega
    have hvalue := dec2iqRounds_exact (d := 0) rfl hlt hhi (one_dvd _)
    exact Prod.ext (by omega) (dec2iqRounds_spent rfl hlt hhi)

/-- Settles O29: computed at the lower bounds; above them what the rounds lose, by decimals. -/
theorem dec2iqErrorBounds : Obligations.Dec2iqErrorBounds := by
  unfold Obligations.Dec2iqErrorBounds
  intro d v lo hi h hlo hhi
  obtain rfl | hlt := hlo.eq_or_lt
  · rw [dec2iq_lo h]
    obtain ⟨rfl, rfl, -⟩ | ⟨rfl, rfl, -⟩ | ⟨rfl, rfl, -⟩ := validRange_iff.mp h <;> decide
  · have hcases := validRange_iff.mp h
    refine ⟨fun hdvd => ?_, ?_, ?_, ?_⟩
    · exact mul_ten_pow_eq (validRange_le h) (dec2iq_exact h hlt hhi hdvd)
    · rintro rfl
      exact dec2iq_zero (by omega) (by omega)
    · rintro rfl
      have := dec2iq_one_loss (p := Config.hardware) (v := v) (by omega) (by omega)
      exact abs_le.mpr ⟨by omega, by omega⟩
    · rintro rfl
      have := dec2iq_two_loss (p := Config.hardware) (v := v) (by omega) (by omega)
      exact abs_le.mpr ⟨by omega, by omega⟩

/-- Settles O30: the order kept and the oddness outside the guard's own bound 16383; at it both are computed. -/
theorem dec2iqMonotoneAndOdd : Obligations.Dec2iqMonotoneAndOdd := by
  unfold Obligations.Dec2iqMonotoneAndOdd
  refine ⟨fun d v hd hv hv' hne => dec2iq_mono hd hv hv' hne, by decide, ?_, by decide⟩
  intro d v lo hi h hlo hhi hlo' hhi' hne
  have hcases := validRange_iff.mp h
  exact dec2iq_odd h (by omega) (by omega)

end Sys2Proof.Machine
end

section
/-! The round trip through both conversions (40_converter.md R103). -/

namespace Sys2Proof.Machine

section
variable {v x : Int}

/-- One doubling before the first division, and two before the second. -/
theorem dec2iqRounds_middle (hlo : 10240 ≤ v) (hhi : v < 16383) : (dec2iqRounds v 2).1 = v * 2 / 5 * 4 / 5 * 4 := by
  rw [dec2iqRounds, decRounds_mul (by omega), decRounds_div (by omega), decRounds_mul (by omega), decRounds_mul (by omega),
    decRounds_div (by omega), decRounds_mul (by omega), decRounds_mul (by omega), rescale_done]
  dsimp only
  omega

/-- No doubling before the first division, and three or two before the second. -/
theorem dec2iqRounds_top (hlo : 16383 ≤ v) (hhi : v ≤ 25599) :
    (dec2iqRounds v 2).1 = if v < 20480 then v / 5 * 8 / 5 * 4 else v / 5 * 4 / 5 * 8 := by
  rw [dec2iqRounds, decRounds_div (by omega), decRounds_mul (by omega), decRounds_mul (by omega)]
  by_cases hthird : v < 20480
  · rw [decRounds_mul (by omega), decRounds_div (by omega), decRounds_mul (by omega), decRounds_mul (by omega), rescale_done,
      if_pos hthird]
    dsimp only
    omega
  · rw [decRounds_div (by omega), decRounds_mul (by omega), decRounds_mul (by omega), decRounds_mul (by omega), rescale_done,
      if_neg hthird]
    dsimp only
    omega

/-- Two divisions before the first multiplication, and two or three before the second. -/
theorem iq2decRounds_middle (hlo : 20964 ≤ x) (hhi : x ≤ 26211) :
    (iq2decRounds x 2).1 = if x < 20972 then x / 4 * 5 / 4 * 5 / 2 else x / 4 * 5 / 8 * 5 := by
  rw [iq2decRounds, iqRounds_div (by omega), iqRounds_div (by omega), iqRounds_mul (by omega), iqRounds_div (by omega),
    iqRounds_div (by omega)]
  by_cases hthird : x < 20972
  · rw [iqRounds_mul (by omega), rescale_fall_spent, rescale_done, if_pos hthird]
    dsimp only [asr1]
    omega
  · rw [iqRounds_div (by omega), iqRounds_mul (by omega), rescale_done, if_neg hthird]
    dsimp only
    omega

/-- Three divisions before the first multiplication, and two before the second. -/
theorem iq2decRounds_top (hlo : 26212 ≤ x) (hhi : x ≤ 32766) : (iq2decRounds x 2).1 = x / 8 * 5 / 4 * 5 := by
  rw [iq2decRounds, iqRounds_div (by omega), iqRounds_div (by omega), iqRounds_div (by omega), iqRounds_mul (by omega),
    iqRounds_div (by omega), iqRounds_div (by omega), iqRounds_mul (by omega), rescale_done]
  dsimp only
  omega

/-- What both conversions lose together at two decimals (40_converter.md R103). The losses of the two alone add up to more than 9
from 10240 on; there DEC2IQ ends in two or three doublings, which IQ2DEC's first divisions undo without a loss. -/
theorem roundTrip_two_loss (hlo : 0 ≤ v) (hhi : v ≤ 25599) : v - (iq2decRounds (dec2iqRounds v 2).1 2).1 ≤ 9 := by
  have hexact := dec2iqRounds_le_exact (d := 2) rfl hlo hhi
  have hdec := dec2iqRounds_two_loss hlo hhi
  have hiq := iq2decRounds_two_loss (v := (dec2iqRounds v 2).1) (by omega) (by omega)
  obtain hlow | hmiddle | htop : v < 10240 ∨ (10240 ≤ v ∧ v < 16383) ∨ 16383 ≤ v := by omega
  · omega
  · have hvalue := dec2iqRounds_middle hmiddle.1 hmiddle.2
    omega
  · have hvalue := dec2iqRounds_top htop hhi
    by_cases hx : (dec2iqRounds v 2).1 ≤ 26211
    · rw [iq2decRounds_middle (by omega) hx]
      omega
    · rw [iq2decRounds_top (by omega) (by omega)]
      omega

variable {d : Nat} {lo hi : Int} {p : Config.Params}

/-- Above the lower bound DEC2IQ gives neither of the extremes that IQ2DEC passes through. -/
theorem dec2iq_not_extreme (h : validRange d = some (lo, hi)) (hlo : lo < v) (hhi : v ≤ hi) :
    -32768 < dec2iq p v d ∧ dec2iq p v d < 32767 := by
  obtain ⟨rfl, rfl, rfl⟩ | ⟨rfl, rfl, rfl⟩ | ⟨rfl, rfl, rfl⟩ := validRange_iff.mp h
  · rw [dec2iq_zero hlo.le hhi]
    omega
  · have := dec2iq_one_loss (p := p) hlo hhi
    omega
  · have := dec2iq_two_loss (p := p) hlo hhi
    omega

theorem roundTrip_exact (h : validRange d = some (lo, hi)) (hlo : lo < v) (hhi : v ≤ hi) (hdvd : (10 : Int) ^ d ∣ v * 128) :
    iq2dec (dec2iq p v d) d = v := by
  have hdec : dec2iq p v d * 5 ^ d = v * 2 ^ (7 - d) := dec2iq_exact h hlo hhi hdvd
  have hcoprime : IsCoprime ((2 : Int) ^ (7 - d)) (5 ^ d) := IsCoprime.pow (by norm_num)
  have hdvd' : (2 : Int) ^ (7 - d) ∣ dec2iq p v d :=
    hcoprime.dvd_of_dvd_mul_right (hdec ▸ dvd_mul_left _ v)
  obtain ⟨hmin, hmax⟩ := dec2iq_not_extreme (p := p) h hlo hhi
  have hiq := iq2dec_exact (validRange_le h) hmin hmax hdvd'
  exact mul_right_cancel₀ (pow_ne_zero _ (by decide)) (hiq.trans hdec)

theorem roundTrip_one (hlo : -2560 < v) (hhi : v ≤ 2559) :
    iq2dec (dec2iq p v 1) 1 = v ∨ iq2dec (dec2iq p v 1) 1 = v - 1 := by
  obtain ⟨hmin, hmax⟩ := dec2iq_not_extreme (d := 1) (p := p) rfl hlo hhi
  have hdec := dec2iq_one_loss (p := p) hlo hhi
  have hfloor := iq2dec_le_exact (d := 1) (by decide) hmin hmax
  have hiq := iq2dec_one_loss hmin hmax
  omega

theorem roundTrip_two (hlo : -25600 < v) (hhi : v ≤ 25599) : |iq2dec (dec2iq p v 2) 2 - v| ≤ 9 := by
  obtain ⟨hmin, hmax⟩ := dec2iq_not_extreme (d := 2) (p := p) rfl hlo hhi
  have hdec := dec2iq_two_loss (p := p) hlo hhi
  have hfloor := iq2dec_le_exact (d := 2) (by decide) hmin hmax
  have hiq := iq2dec_two_loss hmin hmax
  have htogether : 0 ≤ v → v - iq2dec (dec2iq p v 2) 2 ≤ 9 := by
    intro hv
    rw [iq2dec_eq (by decide) hmin hmax, dec2iq_eq (d := 2) rfl hlo hhi]
    exact roundTrip_two_loss hv hhi
  exact abs_le.mpr ⟨by omega, by omega⟩

end

/-- Settles O34: at the lower bound the extreme is passed through; else the errors of both conversions add up. -/
theorem roundTripError : Obligations.RoundTripError := by
  unfold Obligations.RoundTripError
  intro d v lo hi h hlo hhi
  have hcases := validRange_iff.mp h
  refine ⟨?_, fun hne => ?_⟩
  · rintro rfl
    rw [dec2iq_lo h, iq2dec_extreme (validRange_le h) (.inl rfl)]
    rfl
  have hlt : lo < v := by omega
  refine ⟨?_, ?_, ?_, roundTrip_exact h hlt hhi⟩
  · rintro rfl
    exact roundTrip_exact h hlt hhi (one_dvd _)
  · rintro rfl
    exact roundTrip_one (by omega) (by omega)
  · rintro rfl
    exact roundTrip_two (by omega) (by omega)

end Sys2Proof.Machine
end

section
/-! What a TICK reads and where it goes, by the state it starts in (41_tracker.md R122, R132, R134). -/

namespace Sys2Proof.Machine

variable {p : Config.Params} {st : BitVec 3} {ts now : BitVec 16} {busy : Bool}

theorem readsStatus_iff : readsStatus p st ts now = true ↔
    st = stStart ∨ st = stPollingBusy ∨
      (st = stWaitingSettle ∧ p.settleFallthrough = true ∧ p.settleDelay.val < (now - ts).toNat) := by
  rcases st_cases st with rfl | rfl | rfl | rfl | rfl | h
  case inr.inr.inr.inr.inr =>
    rw [readsStatus_unrecognized _ _ _ h]
    refine ⟨by simp, ?_⟩
    rintro (rfl | rfl | ⟨rfl, -⟩) <;> simp at h
  all_goals simp [settled_iff, st_literals]

theorem readsStatus_polling (h : st = stStart ∨ st = stPollingBusy) : readsStatus p st ts now = true :=
  readsStatus_iff.mpr (h.imp_right .inl)

theorem nextSt_polling (h : st = stStart ∨ st = stPollingBusy) :
    nextSt p st ts busy now = if busy then st else stIdle := by
  rcases h with rfl | rfl
  · exact nextSt_start ..
  · exact nextSt_pollingBusy ..

theorem idleWord_polling (h : st = stStart ∨ st = stPollingBusy) : idleWord st = 0x0000#16 := by
  rcases h with rfl | rfl
  · exact idleWord_start
  · exact idleWord_pollingBusy

theorem idleWord_eq_ite : idleWord st = if st = stIdle then 0x0001#16 else 0x0000#16 := by
  simp [idleWord, isIdle]

/-- This hardware, without SETTLE_FALLTHROUGH, decides by `st` alone whether a TICK reads (41_tracker.md R132). -/
theorem readsStatus_hardware_congr (ts' now' : BitVec 16) :
    readsStatus Config.hardware st ts now = readsStatus Config.hardware st ts' now' := by
  rw [Bool.eq_iff_iff, readsStatus_iff, readsStatus_iff]
  simp

/-- Only the settle test looks at `now` (41_tracker.md R134). -/
theorem nextSt_now_congr (h : st ≠ stWaitingSettle) (now' : BitVec 16) :
    nextSt p st ts busy now = nextSt p st ts busy now' := by
  rcases st_cases st with rfl | rfl | rfl | rfl | rfl | hu
  case inr.inr.inr.inl => exact absurd rfl h
  case inr.inr.inr.inr.inr => rw [nextSt_unrecognized _ _ _ _ hu, nextSt_unrecognized _ _ _ _ hu]
  all_goals rfl

/-- The moves a TICK can make: none out of Idle, none into Start or WriteIssued, and into the two states of the wait only from the state
before (41_tracker.md R138). -/
theorem nextSt_moves {st' : BitVec 3} (h : nextSt p st ts busy now = st') (hne : st' ≠ st) :
    st ≠ stIdle ∧ st' ≠ stStart ∧ st' ≠ stWriteIssued ∧ (st' = stWaitingSettle → st = stWriteIssued) ∧
      (st' = stPollingBusy → st = stWaitingSettle) := by
  subst h
  rcases st_cases st with rfl | rfl | rfl | rfl | rfl | hu
  case inl => exact absurd (nextSt_idle ..) hne
  case inr.inl => cases busy <;> simp [st_literals] at hne ⊢
  case inr.inr.inl => simp [st_literals]
  case inr.inr.inr.inl =>
    cases hs : settled p ts now <;> cases hb : p.settleFallthrough && !busy <;> simp [hs, hb, st_literals] at hne ⊢
  case inr.inr.inr.inr.inl => cases busy <;> simp [st_literals] at hne ⊢
  case inr.inr.inr.inr.inr =>
    have hidle : st ≠ stIdle := by rintro rfl; simp at hu
    simp [nextSt_unrecognized _ _ _ _ hu, hidle, st_literals]

end Sys2Proof.Machine
end

section
/-! The whole TICK, by whether it reads and whether it is answered (41_tracker.md R125; 20_memory.md R48). -/

namespace Sys2Proof.Machine

variable {p : Config.Params} {now status : BitVec 16} {s : State} {c : Collaborator}

theorem tickWith_unread (h : readsStatus p s.st s.ts now = false) :
    tickWith p now s =
      { s with st := nextSt p s.st s.ts false now, rsp := some (idleWord (nextSt p s.st s.ts false now)) } := by
  simp [tickWith, h, completeTick, respond]

theorem tickWith_answered (h : readsStatus p s.st s.ts now = true) (hc : s.collab.poll (s.reads + 1) = (some status, c)) :
    tickWith p now s =
      { s with
        st := nextSt p s.st s.ts (busyFlag p status) now
        pending := none
        rsp := some (idleWord (nextSt p s.st s.ts (busyFlag p status) now))
        collab := c
        reads := s.reads + 1 } := by
  have hc' : (issueRead now s).collab.poll (issueRead now s).reads = (some status, c) := hc
  rw [tickWith, if_pos h, awaitAnswer_answered hc']
  rfl

theorem tickWith_unanswered (h : readsStatus p s.st s.ts now = true) (hc : s.collab.poll (s.reads + 1) = (none, c)) :
    tickWith p now s = { s with pending := some now, rsp := none, collab := c, reads := s.reads + 1 } := by
  have hc' : (issueRead now s).collab.poll (issueRead now s).reads = (none, c) := hc
  rw [tickWith, if_pos h, awaitAnswer_unanswered hc']
  rfl

/-- A TICK in Start or PollingBusy answered with a clear busy flag. -/
theorem tickWith_polling_idle (hst : s.st = stStart ∨ s.st = stPollingBusy)
    (hc : s.collab.poll (s.reads + 1) = (some status, c)) (hb : busyFlag p status = false) :
    tickWith p now s =
      { s with st := stIdle, pending := none, rsp := some 0x0001#16, collab := c, reads := s.reads + 1 } := by
  rw [tickWith_answered (readsStatus_polling hst) hc, nextSt_polling hst, hb]
  rfl

/-- A TICK in Start or PollingBusy answered with a set busy flag. -/
theorem tickWith_polling_busy (hst : s.st = stStart ∨ s.st = stPollingBusy)
    (hc : s.collab.poll (s.reads + 1) = (some status, c)) (hb : busyFlag p status = true) :
    tickWith p now s = { s with pending := none, rsp := some 0x0000#16, collab := c, reads := s.reads + 1 } := by
  rw [tickWith_answered (readsStatus_polling hst) hc, nextSt_polling hst, hb, if_pos rfl, idleWord_polling hst]

/-- A TICK makes at most its one StatusRead (20_memory.md R42). -/
@[simp] theorem tickWith_reads :
    (tickWith p now s).reads = s.reads + if readsStatus p s.st s.ts now then 1 else 0 := by
  obtain ⟨h, e⟩ | ⟨h, status, c, -, e⟩ | ⟨h, c, -, e⟩ := tickWith_cases p now s <;> simp [h, e]

end Sys2Proof.Machine
end

section
/-! Elapsed time, ARM, and TICK state by state (41_tracker.md R121, R124, R126 to R133). -/

namespace Sys2Proof.Machine

/-- Settles O35: subtraction of 16-bit words is subtraction modulo 2^16. -/
theorem elapsedWraps : Obligations.ElapsedWraps := by
  unfold Obligations.ElapsedWraps
  refine ⟨fun now ts => ?_, by decide⟩
  rw [elapsed, BitVec.toNat_sub]
  omega

/-- Settles O36: the literal word is the encoder's command word, and ARM is one record update. -/
theorem armRecordsTheWrite : Obligations.ArmRecordsTheWrite := by
  unfold Obligations.ArmRecordsTheWrite
  intro rsv dec now s
  constructor
  · change decode (commandWord 0x3#4 rsv dec now) = _
    rw [decode_arm (opField_commandWord ..), rsvField_commandWord, decField_commandWord, opndField_commandWord]
  · rw [exec_arm, respond]

/-- Settles O37: no read, and Idle is its own successor. -/
theorem tickInIdle : Obligations.TickInIdle := by
  unfold Obligations.TickInIdle
  intro rsv dec now s hst
  rw [exec_tick, tickWith_unread (by simp [hst])]
  simp [hst]

/-- Settles O38: Start is one of the two states that poll. -/
theorem tickInStart : Obligations.TickInStart := by
  unfold Obligations.TickInStart
  intro rsv dec now status s c hst hp hc
  refine ⟨fun hb => ?_, fun hb => ?_⟩
  · rw [exec_tick, tickWith_polling_idle (.inl hst) hc (by rwa [busyFlag_hardware]), hp]
  · rw [exec_tick, tickWith_polling_busy (.inl hst) hc (by rwa [busyFlag_hardware]), hp, hst]

/-- Settles O39: no read, and WaitingSettle follows whatever `now` is. -/
theorem tickInWriteIssued : Obligations.TickInWriteIssued := by
  unfold Obligations.TickInWriteIssued
  intro rsv dec now s hst
  rw [exec_tick, tickWith_unread (by simp [hst])]
  simp [hst]

/-- Settles O40: without SETTLE_FALLTHROUGH nothing is read, and the settle test alone picks the successor. -/
theorem tickInWaitingSettle : Obligations.TickInWaitingSettle := by
  unfold Obligations.TickInWaitingSettle
  intro rsv dec now s hst
  rw [exec_tick, tickWith_unread (by simp [hst])]
  refine ⟨fun h => ?_, fun h => ?_⟩
  · have settles : settled Config.hardware s.ts now = true := (settled_iff ..).mpr h
    simp [hst, settles]
  · have waits : settled Config.hardware s.ts now = false := by
      rw [← Bool.not_eq_true, settled_iff]
      omega
    simp [hst, waits]

/-- Settles O41: PollingBusy is one of the two states that poll. -/
theorem tickInPollingBusy : Obligations.TickInPollingBusy := by
  unfold Obligations.TickInPollingBusy
  intro rsv dec now status s c hst hp hc
  refine ⟨fun hb => ?_, fun hb => ?_⟩
  · rw [exec_tick, tickWith_polling_idle (.inr hst) hc (by rwa [busyFlag_hardware]), hp]
  · rw [exec_tick, tickWith_polling_busy (.inr hst) hc (by rwa [busyFlag_hardware]), hp, hst]

/-- Settles O42: the three encodings are the unrecognized ones, which read nothing and lead to Idle. -/
theorem tickInUnrecognizedState : Obligations.TickInUnrecognizedState := by
  unfold Obligations.TickInUnrecognizedState
  intro rsv dec now s hst
  have hu : phaseOf s.st = .unrecognized := by rcases hst with h | h | h <;> rw [h] <;> rfl
  rw [exec_tick, tickWith_unread (readsStatus_unrecognized _ _ _ hu), nextSt_unrecognized _ _ _ _ hu]
  rfl

/-- Settles O48: with the variant a settled TICK reads, and the busy flag picks between Idle and PollingBusy. -/
theorem fallthroughVariantPolls : Obligations.FallthroughVariantPolls := by
  unfold Obligations.FallthroughVariantPolls
  intro p now status s c hf hst hp h hc
  have settles : settled p s.ts now = true := (settled_iff ..).mpr h
  rw [tickWith_answered (readsStatus_iff.mpr (.inr (.inr ⟨hst, hf, h⟩))) hc, busyFlag, hst, hp, nextSt_waitingSettle, settles, hf]
  refine ⟨fun hb => ?_, fun hb => ?_⟩ <;> rw [hb] <;> rfl

/-- Settles O46: an unanswered read leaves the TICK pending, and where it completes the response is `idleWord` of the new state. -/
theorem tickAnswersIdleIndication : Obligations.TickAnswersIdleIndication := by
  unfold Obligations.TickAnswersIdleIndication
  intro rsv dec now s t hp hexec hq
  obtain rfl : tickWith Config.hardware now s = t := by simpa using hexec
  obtain ⟨-, e⟩ | ⟨-, status, c, -, e⟩ | ⟨-, c, -, e⟩ := tickWith_cases Config.hardware now s
  · rw [e, completeTick_rsp, completeTick_st, idleWord_eq_ite]
  · rw [e, completeTick_rsp, completeTick_st, idleWord_eq_ite]
  · simp [e] at hq

theorem exec_reads_of_not_tick {i : Instr} {s t : State} (hop : opOf i ≠ 0x4#4) (h : exec i s = .next t) :
    t.reads = s.reads := by
  have hres : opOf i = 0x0#4 ∨ 0x5#4 ≤ opOf i → t.reads = s.reads := fun hi => by
    obtain rfl : respond 0x0000#16 s = t := by simpa [exec_reserved hi] using h
    rfl
  cases i with
  | dec2iq | iq2dec | arm => cases h; rfl
  | tick => exact absurd rfl hop
  | _ => exact hres (by simp [opOf])

/-- Settles O47: the count of `tickWith_reads` with `readsStatus_iff`, and the frame of every other command. -/
theorem onlyTickReadsAndAtMostOnce : Obligations.OnlyTickReadsAndAtMostOnce := by
  unfold Obligations.OnlyTickReadsAndAtMostOnce
  refine ⟨fun p now s => ⟨fun h => ?_, fun h => ?_⟩, exec_tick, fun i s t => exec_reads_of_not_tick⟩
  · rw [tickWith_reads, readsStatus_iff.mpr h, if_pos rfl]
  · rw [tickWith_reads, if_neg (mt readsStatus_iff.mp h), Nat.add_zero]

end Sys2Proof.Machine
end

section
/-! What a TICK does not look at: `now` outside WaitingSettle, and a status word's other bits (41_tracker.md R134). -/

namespace Sys2Proof.Machine

/-- Two states that differ at most in the `now` a pending TICK remembers. -/
def sameButPendingNow (t u : State) : Prop :=
  u = { t with pending := u.pending } ∧ (t.pending = none ↔ u.pending = none)

theorem sameButPendingNow_refl (t : State) : sameButPendingNow t t := ⟨rfl, Iff.rfl⟩

theorem completeTick_now_congr {s : State} (h : s.st ≠ stWaitingSettle) (p : Config.Params) (a b : BitVec 16) (busy : Bool) :
    completeTick p a busy s = completeTick p b busy s := by
  rw [completeTick, completeTick, nextSt_now_congr h b]

/-- A wait that remembers another `now` ends alike, or goes on and remembers it still. -/
theorem awaitAnswer_sameButPendingNow {s : State} (h : s.st ≠ stWaitingSettle) (p : Config.Params) (a b : BitVec 16) :
    sameButPendingNow (awaitAnswer p a { s with pending := some a }) (awaitAnswer p b { s with pending := some b }) := by
  rcases hc : s.collab.poll s.reads with ⟨_ | status, rest⟩
  · have waits (now : BitVec 16) : awaitAnswer p now { s with pending := some now } =
        { s with pending := some now, collab := rest } := awaitAnswer_unanswered hc
    rw [waits a, waits b]
    exact ⟨rfl, by simp⟩
  · have ends (now : BitVec 16) : awaitAnswer p now { s with pending := some now } =
        completeTick p now (busyFlag p status) { s with pending := none, collab := rest } := awaitAnswer_answered hc
    rw [ends a, ends b, completeTick_now_congr (s := { s with pending := none, collab := rest }) h p b a]
    exact sameButPendingNow_refl _

theorem tickWith_hardware_sameButPendingNow {s : State} (h : s.st ≠ stWaitingSettle) (a b : BitVec 16) :
    sameButPendingNow (tickWith Config.hardware a s) (tickWith Config.hardware b s) := by
  rw [tickWith, tickWith, readsStatus_hardware_congr (now := b) s.ts a, completeTick_now_congr h _ b a]
  split
  · exact awaitAnswer_sameButPendingNow (s := { s with rsp := none, reads := s.reads + 1 }) h _ a b
  · exact sameButPendingNow_refl _

/-- Settles O49: a TICK and a wait each decide by `nextSt`, which looks at `now` in WaitingSettle only and at the answer's busy flag. -/
theorem nowAndOtherStatusBitsIgnored : Obligations.NowAndOtherStatusBitsIgnored := by
  unfold Obligations.NowAndOtherStatusBitsIgnored
  refine ⟨?_, ?_, ?_⟩
  · intro rsv dec a b s t u hst _ ht hu
    obtain rfl : tickWith Config.hardware a s = t := by simpa using ht
    obtain rfl : tickWith Config.hardware b s = u := by simpa using hu
    exact tickWith_hardware_sameButPendingNow hst a b
  · intro a b s t u hst hh ht hu
    obtain rfl : awaitAnswer Config.hardware a { s with pending := some a } = t := by
      simpa [step_awaiting (s := { s with pending := some a }) hh rfl] using ht
    obtain rfl : awaitAnswer Config.hardware b { s with pending := some b } = u := by
      simpa [step_awaiting (s := { s with pending := some b }) hh rfl] using hu
    exact awaitAnswer_sameButPendingNow hst _ a b
  · intro rsv dec now s c x y hbit hst
    have answered (w : BitVec 16) :=
      tickWith_answered (p := Config.hardware) (now := now) (s := { s with collab := .word w c })
        (readsStatus_polling hst) (poll_word _ w c)
    rw [exec_tick, exec_tick, answered x, answered y, busyFlag_hardware, busyFlag_hardware, hbit]

end Sys2Proof.Machine
end

section
/-! How a step moves `st`, and the step that ends a wait (41_tracker.md R123, R138; 20_memory.md R48). -/

namespace Sys2Proof.Machine

open Sys2Proof.Safety

theorem tickWith_st_cases (p : Config.Params) (now : BitVec 16) (s : State) :
    (tickWith p now s).st = s.st ∨ ∃ busy, (tickWith p now s).st = nextSt p s.st s.ts busy now := by
  obtain ⟨-, e⟩ | ⟨-, status, c, -, e⟩ | ⟨-, c, -, e⟩ := tickWith_cases p now s
  · exact .inr ⟨false, by simp [e]⟩
  · exact .inr ⟨busyFlag p status, by simp [e]⟩
  · exact .inl (by simp [e])

theorem awaitAnswer_st_cases (p : Config.Params) (now : BitVec 16) (s : State) :
    (awaitAnswer p now s).st = s.st ∨ ∃ busy, (awaitAnswer p now s).st = nextSt p s.st s.ts busy now := by
  obtain ⟨status, rest, -, e⟩ | ⟨rest, -, e⟩ := awaitAnswer_cases p now s
  · exact .inr ⟨busyFlag p status, by simp [e]⟩
  · exact .inl (by simp [e])

/-- Everything a step can do to `st`: nothing, a reset, an ARM, or the transition of a TICK. -/
theorem step_st_cases {s t : State} (h : step s = .next t) :
    t.st = s.st ∨ (nextEvent s = .reset ∧ t.st = stStart) ∨
      ((∃ w, nextEvent s = .accept w ∧ isArm w) ∧ t.st = stWriteIssued) ∨
      ∃ busy now, t.st = nextSt Config.hardware s.st s.ts busy now := by
  obtain ⟨rest, -, hn, e⟩ | ⟨now, -, -, -, e⟩ | ⟨w, rest, -, -, hn, e⟩ | ⟨-, -, -, e⟩ := step_cases s <;> rw [h] at e
  · cases e
    exact .inr (.inl ⟨hn, rfl⟩)
  · cases e
    exact (awaitAnswer_st_cases Config.hardware now s).imp_right fun ⟨busy, e⟩ => .inr (.inr ⟨busy, now, e⟩)
  · obtain ⟨-, -, r, e'⟩ | ⟨harm, e'⟩ | ⟨-, e'⟩ := exec_cases w (popHost s) <;> rw [e'] at e <;> cases e
    · exact .inl rfl
    · exact .inr (.inr (.inl ⟨⟨w, hn, harm⟩, rfl⟩))
    · exact (tickWith_st_cases Config.hardware (opndField w) (popHost s)).imp_right
        fun ⟨busy, e⟩ => .inr (.inr ⟨busy, opndField w, e⟩)
  · cases e
    exact .inl rfl

/-- Settles O52: a step that moves `st` is a reset, an ARM, or one of the moves of `nextSt_moves`. -/
theorem absorptionAndReachability : Obligations.AbsorptionAndReachability := by
  unfold Obligations.AbsorptionAndReachability
  constructor
  · intro rsv dec now s t hst h
    obtain rfl : { s with rsp := some 0x0001#16 } = t := by simpa [tickInIdle rsv dec now s hst] using h
    exact hst
  · intro s t h hne
    obtain e | ⟨hn, e⟩ | ⟨harm, e⟩ | ⟨busy, now, e⟩ := step_st_cases h
    · exact absurd e hne
    · simp [e, hn, st_literals]
    · simp [e, harm, st_literals]
    · obtain ⟨hidle, hstart, hwrite, hwait, hpoll⟩ := nextSt_moves e.symm hne
      exact ⟨(absurd · hidle), (absurd · hstart), (absurd · hwrite), hwait, hpoll⟩

/-- The response event of a step that leaves nothing pending, be it an acceptance or the end of a wait. -/
theorem stepResponse_completed {s t : State} (h : step s = .next t) (hp : t.pending = none)
    (hn : (∃ w, nextEvent s = .accept w) ∨ ∃ now, nextEvent s = .awaiting now) : stepResponse s = t.rsp := by
  rcases hn with ⟨w, hn⟩ | ⟨now, hn⟩ <;> simp [stepResponse, hn, h, hp]

/-- Settles O44: the step is the wait, which the answer ends by its busy flag. -/
theorem answerCompletesPendingTick : Obligations.AnswerCompletesPendingTick := by
  unfold Obligations.AnswerCompletesPendingTick
  intro now status s c hst hp hh hc
  have hstep := step_awaiting hh hp
  rw [awaitAnswer_answered hc, completeTick, nextSt_polling hst, busyFlag_hardware] at hstep
  have hresp := stepResponse_completed hstep rfl (.inr ⟨now, nextEvent_awaiting hh hp⟩)
  refine ⟨fun hb => ?_, fun hb => ?_⟩ <;> rw [hb] at hstep hresp
  · exact ⟨hstep, hresp⟩
  · rw [if_pos rfl, idleWord_polling hst] at hstep hresp
    exact ⟨hstep, hresp⟩

end Sys2Proof.Machine
end

section
/-! Runs of TICKs: what each accepted TICK answers, and the sequences of R137 and R139 (41_tracker.md). -/

namespace Sys2Proof.Machine

open Sys2Proof.Safety

theorem responses_one {s t : State} (h : step s = .next t) : responses 1 s = (stepResponse s).toList := by
  rw [responses_succ h, responses_zero, List.append_nil]

section
variable {s : State} {w : CmdWord} {rest : List HostEvent}
variable (hhost : s.host = .command w :: rest) (hp : s.pending = none) (hw : isTick w)
include hhost hp hw

theorem step_tick : step s = .next (tickWith Config.hardware (opndField w) { s with host := rest }) := by
  simp [step, nextEvent_accept hhost hp, decode_tick hw, popHost, hhost]

theorem step_tick_completes {t : State} (e : tickWith Config.hardware (opndField w) { s with host := rest } = t)
    (hq : t.pending = none) : step s = .next t ∧ stepResponse s = t.rsp := by
  have hstep := step_tick hhost hp hw
  rw [e] at hstep
  exact ⟨hstep, stepResponse_completed hstep hq (.inl ⟨w, nextEvent_accept hhost hp⟩)⟩

theorem step_tick_writeIssued (hst : s.st = stWriteIssued) :
    step s = .next { s with st := stWaitingSettle, rsp := some 0x0000#16, host := rest } ∧
      stepResponse s = some 0x0000#16 := by
  refine step_tick_completes hhost hp hw ?_ hp
  rw [tickWith_unread (by simp [hst])]
  simp [hst]

theorem step_tick_waitingSettle (hst : s.st = stWaitingSettle) :
    step s = .next { s with
        st := if settled Config.hardware s.ts (opndField w) then stPollingBusy else stWaitingSettle
        rsp := some 0x0000#16
        host := rest } ∧
      stepResponse s = some 0x0000#16 := by
  refine step_tick_completes hhost hp hw ?_ hp
  rw [tickWith_unread (by simp [hst])]
  cases hs : settled Config.hardware s.ts (opndField w) <;> simp [hst, hs]

section
variable {status : BitVec 16} {c : Collaborator} (hst : s.st = stStart ∨ s.st = stPollingBusy)
include hst

theorem step_tick_polling_idle (hc : s.collab.poll (s.reads + 1) = (some status, c)) (hb : status.getLsbD 13 = false) :
    step s = .next
        { s with st := stIdle, rsp := some 0x0001#16, host := rest, collab := c, reads := s.reads + 1 } ∧
      stepResponse s = some 0x0001#16 := by
  refine step_tick_completes hhost hp hw ?_ hp
  rw [hp]
  exact tickWith_polling_idle hst hc hb

theorem step_tick_polling_busy (hc : s.collab.poll (s.reads + 1) = (some status, c)) (hb : status.getLsbD 13 = true) :
    step s = .next { s with rsp := some 0x0000#16, host := rest, collab := c, reads := s.reads + 1 } ∧
      stepResponse s = some 0x0000#16 := by
  refine step_tick_completes hhost hp hw ?_ hp
  rw [hp]
  exact tickWith_polling_busy hst hc hb

/-- A TICK that polls answers 1 in its accepting step exactly where its read is answered at once with a clear busy flag. -/
theorem stepResponse_polling_iff : stepResponse s = some 0x0001#16 ↔
    ∃ status c, s.collab.poll (s.reads + 1) = (some status, c) ∧ status.getLsbD 13 = false := by
  rcases hc : s.collab.poll (s.reads + 1) with ⟨_ | status, c⟩
  · have hstep := step_tick hhost hp hw
    rw [tickWith_unanswered (s := { s with host := rest }) (readsStatus_polling hst) hc] at hstep
    simp [stepResponse, nextEvent_accept hhost hp, hstep]
  · cases hb : status.getLsbD 13 with
    | false => exact iff_of_true (step_tick_polling_idle hhost hp hw hst hc hb).2 ⟨status, c, rfl, hb⟩
    | true =>
      rw [(step_tick_polling_busy hhost hp hw hst hc hb).2]
      refine iff_of_false (by decide) ?_
      rintro ⟨_, _, ⟨⟩, hb'⟩
      exact absurd (hb.symm.trans hb') (by decide)

theorem responses_one_polling_iff : responses 1 s = [0x0001#16] ↔
    ∃ status c, s.collab.poll (s.reads + 1) = (some status, c) ∧ status.getLsbD 13 = false := by
  rw [responses_one (step_tick hhost hp hw), ← stepResponse_polling_iff hhost hp hw hst]
  cases stepResponse s <;> simp

end

end

/-- In WaitingSettle the first TICK answers 0, and the second 1 exactly where the first was settled and the second
reads a clear busy flag. -/
theorem responses_waitingSettle {w v : CmdWord} {rest : List HostEvent} {s : State} (hst : s.st = stWaitingSettle)
    (hp : s.pending = none) (hhost : s.host = .command w :: .command v :: rest) (hw : isTick w) (hv : isTick v) :
    responses 1 s = [0x0000#16] ∧
    (responses 2 s = [0x0000#16, 0x0001#16] ↔
      settled Config.hardware s.ts (opndField w) = true ∧
      ∃ status c, s.collab.poll (s.reads + 1) = (some status, c) ∧ status.getLsbD 13 = false) := by
  obtain ⟨hstep, answer⟩ := step_tick_waitingSettle hhost hp hw hst
  refine ⟨by rw [responses_one hstep, answer]; rfl, ?_⟩
  rw [responses_succ hstep, answer]
  cases settled Config.hardware s.ts (opndField w) with
  | false =>
    obtain ⟨second, again⟩ := step_tick_waitingSettle
      (s := { s with st := stWaitingSettle, rsp := some 0x0000#16, host := .command v :: rest }) rfl hp hv rfl
    simp [responses_one second, again]
  | true =>
    have polls := responses_one_polling_iff
      (s := { s with st := stPollingBusy, rsp := some 0x0000#16, host := .command v :: rest }) rfl hp hv (.inr rfl)
    simpa using polls

/-- Settles O57: the first TICK leads to WaitingSettle, and `responses_waitingSettle` is the rest of the run. -/
theorem minimumTickCount : Obligations.MinimumTickCount := by
  unfold Obligations.MinimumTickCount
  intro w₁ w₂ w₃ rest s hst hp hhost hw₁ hw₂ hw₃
  obtain ⟨hstep, answer⟩ := step_tick_writeIssued hhost hp hw₁ hst
  obtain ⟨second, third⟩ := responses_waitingSettle
    (s := { s with st := stWaitingSettle, rsp := some 0x0000#16, host := .command w₂ :: .command w₃ :: rest })
    rfl hp rfl hw₂ hw₃
  rw [responses_succ hstep, responses_succ hstep, answer, second, ← settled_iff, ← third]
  exact ⟨rfl, List.cons_inj_right _⟩

/-- While the reads are busy a run of TICKs stays where it polls; the first read that is not ends it with 1 (41_tracker.md R127, R130). -/
theorem polling_run {busy : List (BitVec 16)} {last : BitVec 16} {c : Collaborator} {rest : List HostEvent}
    (hbusy : ∀ b ∈ busy, b.getLsbD 13 = true) (hlast : last.getLsbD 13 = false) :
    ∀ (ws : List CmdWord) (s : State), (s.st = stStart ∨ s.st = stPollingBusy) → s.pending = none →
      s.host = commands ws ++ rest → s.collab = Collaborator.answers (busy ++ [last]) c → ws.length = busy.length + 1 →
      (∀ w ∈ ws, isTick w) →
      responses ws.length s = List.replicate busy.length 0x0000#16 ++ [0x0001#16] ∧
      ∀ k ≤ ws.length, ∃ t, run k s = .next t ∧ t.reads = s.reads + k := by
  induction busy with
  | nil =>
    intro ws s hst hp hhost hcollab hlen hticks
    obtain ⟨w, rfl⟩ := List.length_eq_one_iff.mp hlen
    obtain ⟨hstep, answer⟩ := step_tick_polling_idle hhost hp (hticks w (by simp)) hst (by rw [hcollab]; rfl) hlast
    refine ⟨by simp [responses_one hstep, answer], fun k hk => ?_⟩
    obtain rfl | rfl : k = 0 ∨ k = 1 := by simp at hk; omega
    · exact ⟨s, rfl, rfl⟩
    · exact ⟨_, run_succ hstep, rfl⟩
  | cons b busy ih =>
    intro ws s hst hp hhost hcollab hlen hticks
    obtain ⟨w, ws, rfl⟩ := List.exists_cons_of_length_eq_add_one hlen
    obtain ⟨hb, hbusy⟩ := List.forall_mem_cons.mp hbusy
    obtain ⟨hw, hticks⟩ := List.forall_mem_cons.mp hticks
    let s' : State :=
      { s with
        rsp := some 0x0000#16
        host := commands ws ++ rest
        collab := Collaborator.answers (busy ++ [last]) c
        reads := s.reads + 1 }
    obtain ⟨hstep, answer⟩ : step s = .next s' ∧ stepResponse s = some 0x0000#16 :=
      step_tick_polling_busy hhost hp hw hst (by rw [hcollab]; rfl) hb
    obtain ⟨answers, reads⟩ := ih hbusy ws s' hst hp rfl rfl (Nat.succ_injective hlen) hticks
    refine ⟨?_, fun k hk => ?_⟩
    · rw [List.length_cons, responses_succ hstep, answer, answers]
      rfl
    · cases k with
      | zero => exact ⟨s, rfl, rfl⟩
      | succ k =>
        obtain ⟨t, hrun, hreads⟩ := reads k (Nat.le_of_succ_le_succ hk)
        have hcount : s'.reads = s.reads + 1 := rfl
        exact ⟨t, (run_succ hstep).trans hrun, by omega⟩

/-- Settles O58: Start is a state that polls, and `polling_run` is the run. -/
theorem pollingFromStart : Obligations.PollingFromStart := by
  unfold Obligations.PollingFromStart
  intro ws busy last c rest s hst hp hhost hcollab hlen hticks hbusy hlast
  exact polling_run hbusy hlast ws s (.inl hst) hp hhost hcollab hlen hticks

end Sys2Proof.Machine
end

section
/-! No command fails: each responds, or is a TICK that waits for its answer (60_exceptions.md R160, R173). -/

namespace Sys2Proof.Machine

/-- This hardware, without SETTLE_FALLTHROUGH, reads in Start and PollingBusy alone (41_tracker.md R132). -/
theorem readsStatus_hardware_iff {st : BitVec 3} {ts now : BitVec 16} :
    readsStatus Config.hardware st ts now = true ↔ st = stStart ∨ st = stPollingBusy := by
  simp [readsStatus_iff]

/-- Every command but TICK responds and leaves `pending` as it was. -/
theorem exec_responds_of_not_tick {i : Instr} (s : State) (hop : opOf i ≠ 0x4#4) :
    ∃ t, exec i s = .next t ∧ t.pending = s.pending ∧ t.rsp.isSome = true := by
  cases i with
  | tick => exact absurd rfl hop
  | _ => exact ⟨_, rfl, rfl, rfl⟩

/-- A TICK of this hardware responds, or its read is not answered and it waits. -/
theorem tickWith_responds_or_waits {now : BitVec 16} {s : State} (hp : s.pending = none) :
    ((tickWith Config.hardware now s).pending = none ∧ (tickWith Config.hardware now s).rsp.isSome = true) ∨
    ((s.st = stStart ∨ s.st = stPollingBusy) ∧ (tickWith Config.hardware now s).pending.isSome = true ∧
      (tickWith Config.hardware now s).rsp = none ∧ (s.collab.poll (s.reads + 1)).1 = none) := by
  obtain ⟨-, unread⟩ | ⟨-, status, c, -, answered⟩ | ⟨reads, c, hc, unanswered⟩ := tickWith_cases Config.hardware now s
  · simp [unread, hp]
  · simp [answered]
  · exact .inr ⟨readsStatus_hardware_iff.mp reads, by simp [unanswered, hc]⟩

/-- Each of the four events of a step has a next state. -/
theorem step_next (s : State) : ∃ t, step s = .next t := by
  obtain ⟨-, -, -, reset⟩ | ⟨now, -, -, -, waits⟩ | ⟨w, -, -, -, -, accepts⟩ | ⟨-, -, -, quiet⟩ := step_cases s
  · exact ⟨_, reset⟩
  · exact ⟨_, waits⟩
  · obtain ⟨-, -, r, h⟩ | ⟨-, h⟩ | ⟨-, h⟩ := exec_cases w (popHost s) <;> exact ⟨_, accepts.trans h⟩
  · exact ⟨_, quiet⟩

/-- Settles O16: TICK responds or waits, every other command responds, and a step is one of four events with a next state. -/
theorem noCommandFails : Obligations.NoCommandFails := by
  unfold Obligations.NoCommandFails
  refine ⟨fun i s hp => ?_, step_next⟩
  by_cases hop : opOf i = 0x4#4
  · cases i with
    | tick rsv dec now => exact ⟨_, exec_tick .., (tickWith_responds_or_waits hp).imp_right (⟨hop, ·⟩)⟩
    | _ => simp [opOf] at hop
  · obtain ⟨t, h, hpend, hrsp⟩ := exec_responds_of_not_tick s hop
    exact ⟨t, h, .inl ⟨hpend.trans hp, hrsp⟩⟩

end Sys2Proof.Machine
end

section
/-! Reset: what it leaves of the state, and of a TICK that waits (70_reset_and_hazards.md R180, R182). -/

namespace Sys2Proof.Machine

open Sys2Proof.Safety

/-- However late its answer comes, it is the aborted request's answer that is discarded (70_reset_and_hazards.md R182). -/
@[simp] theorem discard_delayed (n : Nat) (c : Collaborator) : (delayed n c).discard = c.discard := by
  induction n with
  | zero => rfl
  | succ n ih => exact ih

/-- A reset gives no response event. -/
theorem stepResponse_reset {s : State} {rest : List HostEvent} (h : s.host = .reset :: rest) : stepResponse s = none := by
  simp [stepResponse, nextEvent_reset h]

/-- Settles O13: the step is `takeReset` after `popHost`, whose fields these are. -/
theorem resetRestoresStart : Obligations.ResetRestoresStart := by
  unfold Obligations.ResetRestoresStart
  intro s rest h
  exact ⟨_, (stepEvents_reset h).1, rfl, rfl, rfl, rfl, by simp [h], rfl⟩

/-- Settles O14: with a TICK pending `takeReset` discards from the script, and `discard` drops the delays and the answer. -/
theorem resetAbortsPendingTick : Obligations.ResetAbortsPendingTick := by
  unfold Obligations.ResetAbortsPendingTick
  intro s rest now answer n c hhost hp hcollab
  have script : s.collab.discard = c := by rw [hcollab, discard_delayed, discard_word]
  refine ⟨stepResponse_reset hhost, ?_⟩
  rw [(stepEvents_reset hhost).1]
  simp [takeReset, popHost, hhost, hp, script]

end Sys2Proof.Machine
end

section
/-! The settle delay that could never pass (00_scope.md R7; 70_reset_and_hazards.md R188). -/

namespace Sys2Proof.Machine

theorem settleDelay?_legal {d : BitVec 16} (h : d.toNat < 65535) : Config.settleDelay? d = some ⟨d.toNat, h⟩ :=
  dif_pos h

/-- Settles O17: elapsed time is a 16-bit word, and the check and the type of a delay both allow every number below 65535. -/
theorem settleDelayOf65535Refused : Obligations.SettleDelayOf65535Refused := by
  unfold Obligations.SettleDelayOf65535Refused
  refine ⟨fun now ts => ?_, rfl, fun d hd => ?_, ?_⟩
  · exact not_lt.mpr (Nat.le_of_lt_succ (elapsed now ts).isLt)
  · have hlegal : d.toNat < 65535 := by bv_omega
    exact ⟨_, settleDelay?_legal hlegal, rfl⟩
  · exact Nat.le_of_lt_succ Config.hardware.settleDelay.isLt

end Sys2Proof.Machine
end

section
/-! The port events of a run: what they account for, and the commands and resets they are made of (20_memory.md R47, R48;
70_reset_and_hazards.md R192). -/

namespace Sys2Proof.Machine

open Sys2Proof.Safety

/-- The response that ends a TICK's read: 0 while the busy flag is set, else 1 (41_tracker.md R127, R130). -/
theorem idleWord_nextSt_polling {p : Config.Params} {st : BitVec 3} {ts now : BitVec 16} {busy : Bool}
    (h : st = stStart ∨ st = stPollingBusy) :
    idleWord (nextSt p st ts busy now) = if busy then 0x0000#16 else 0x0001#16 := by
  rw [nextSt_polling h]
  cases busy with
  | false => rfl
  | true => exact idleWord_polling h

/-- Everything a step can show on the ports, with the fields it leaves: a reset; nothing; the end of a wait; or an accepted command,
which responds, or is a TICK that reads and is answered at once or waits. -/
theorem step_shows {s t : State} (h : step s = .next t) :
    (s.host = .reset :: t.host ∧ t.reads = s.reads ∧ t.pending = none ∧ stepEvents s = [.reset]) ∨
    (t.host = s.host ∧ t.reads = s.reads ∧ t.pending = s.pending ∧ t.st = s.st ∧ stepEvents s = []) ∨
    (t.host = s.host ∧ t.reads = s.reads ∧ s.pending ≠ none ∧ t.pending = none ∧ ∃ status now,
      stepEvents s =
        [.statWord status, .response (idleWord (nextSt Config.hardware s.st s.ts (status.getLsbD 13) now))]) ∨
    (s.pending = none ∧ ∃ w, s.host = .command w :: t.host ∧
      ((t.reads = s.reads ∧ t.pending = none ∧ ∃ r, stepEvents s = [.command w, .response r]) ∨
        (t.reads = s.reads + 1 ∧ isTick w ∧ (s.st = stStart ∨ s.st = stPollingBusy) ∧
          ((t.pending = none ∧ ∃ status, stepEvents s = [.command w, .statRequest, .statWord status,
              .response (if status.getLsbD 13 then 0x0000#16 else 0x0001#16)]) ∨
            (t.pending ≠ none ∧ t.st = s.st ∧ stepEvents s = [.command w, .statRequest]))))) := by
  obtain ⟨rest, hhost, -⟩ | ⟨now, hhost, hp, -⟩ | ⟨w, rest, hhost, hp, -⟩ | ⟨hhost, hp, -⟩ := step_cases s
  · obtain ⟨e, shown⟩ := stepEvents_reset hhost
    cases h.symm.trans e
    exact .inl ⟨by simp [hhost], rfl, rfl, shown⟩
  · obtain ⟨status, c, -, e, shown⟩ | ⟨c, -, e, shown⟩ := stepEvents_awaiting hhost hp <;> cases h.symm.trans e
    · exact .inr (.inr (.inl ⟨rfl, rfl, by simp [hp], rfl, status, now, shown⟩))
    · exact .inr (.inl ⟨rfl, rfl, rfl, rfl, shown⟩)
  · refine .inr (.inr (.inr ⟨hp, w, ?_⟩))
    obtain ⟨r, u, e, hq, rfl, hreads, shown⟩ | ⟨hw, hr, answer⟩ := stepEvents_accept hhost hp
    · cases h.symm.trans e
      exact ⟨hhost, .inl ⟨hreads, hq, r, shown⟩⟩
    · have hst := readsStatus_hardware_iff.mp hr
      obtain ⟨status, c, -, e, shown⟩ | ⟨c, -, e, shown⟩ := answer <;> cases h.symm.trans e
      · rw [idleWord_nextSt_polling hst, busyFlag_hardware] at shown
        exact ⟨by simp [hhost], .inr ⟨rfl, hw, hst, .inl ⟨rfl, status, shown⟩⟩⟩
      · exact ⟨by simp [hhost], .inr ⟨rfl, hw, hst, .inr ⟨by simp, rfl, shown⟩⟩⟩
  · obtain ⟨e, shown⟩ := stepEvents_quiet hhost hp
    cases h.symm.trans e
    exact .inr (.inl ⟨rfl, rfl, rfl, rfl, shown⟩)

/-- A step takes from the host what it shows of the host, and counts the requests it shows. -/
theorem stepEvents_account {s t : State} (h : step s = .next t) :
    s.host = (stepEvents s).filterMap hostEvent? ++ t.host ∧
      t.reads = s.reads + (stepEvents s).count .statRequest := by
  obtain ⟨hhost, hreads, -, shown⟩ | ⟨hhost, hreads, -, -, shown⟩ | ⟨hhost, hreads, -, -, status, now, shown⟩ |
    ⟨-, w, hhost, ⟨hreads, -, r, shown⟩ | ⟨hreads, -, -, ⟨-, status, shown⟩ | ⟨-, -, shown⟩⟩⟩ := step_shows h <;>
    simp [shown, hhost, hreads]

/-- The port events of a run account for what it takes from the host, for its responses and for its count of requests. -/
theorem events_account {n : Nat} {s t : State} (h : run n s = .next t) :
    s.host = (events n s).filterMap hostEvent? ++ t.host ∧
      responses n s = (events n s).filterMap response? ∧
      t.reads = s.reads + (events n s).count .statRequest := by
  induction n generalizing s with
  | zero => cases h; simp
  | succ n ih =>
    obtain ⟨u, hstep⟩ := step_next s
    rw [run_succ hstep] at h
    obtain ⟨hhost, hresp, hreads⟩ := ih h
    obtain ⟨hhost', hreads'⟩ := stepEvents_account hstep
    rw [events_succ hstep, responses_succ hstep, List.filterMap_append, List.filterMap_append, List.count_append,
      stepEvents_response hstep, List.append_assoc, ← hhost, ← hresp]
    exact ⟨hhost', rfl, by omega⟩

/-- The port events so far of the command in flight: none where nothing is pending, else those of a TICK that waits, in a state in
which a TICK polls. -/
def inFlight (s : State) (es : List PortEvent) : Prop :=
  (s.pending = none ∧ es = []) ∨
    (s.pending ≠ none ∧ (s.st = stStart ∨ s.st = stPollingBusy) ∧ isWaiting es)

theorem inFlight_of_ready {s : State} (h : s.pending = none) : inFlight s [] := .inl ⟨h, rfl⟩

theorem inFlight_none {s : State} {es : List PortEvent} (h : inFlight s es) (hp : s.pending = none) : es = [] :=
  h.elim And.right fun ⟨hq, _⟩ => absurd hp hq

theorem inFlight_waiting {s : State} {es : List PortEvent} (h : inFlight s es) (hp : s.pending ≠ none) :
    (s.st = stStart ∨ s.st = stPollingBusy) ∧ isWaiting es :=
  h.elim (fun ⟨hq, _⟩ => absurd hq hp) And.right

/-- A step completes what is in flight, aborts it by a reset, or leaves its events, with the step's own, in flight. -/
theorem step_inFlight {s t : State} {es : List PortEvent} (hes : inFlight s es) (h : step s = .next t) :
    ((isCompleted (es ++ stepEvents s) ∨ isReset (es ++ stepEvents s)) ∧ t.pending = none) ∨
      inFlight t (es ++ stepEvents s) := by
  obtain ⟨-, -, hq, shown⟩ | ⟨-, -, hq, hst, shown⟩ | ⟨-, -, hp, hq, status, now, shown⟩ | ⟨hp, w, -, accepted⟩ :=
    step_shows h
  · rw [shown]
    obtain ⟨-, rfl⟩ | ⟨-, -, hwait⟩ := hes
    · exact .inl ⟨.inr (.inl rfl), hq⟩
    · exact .inl ⟨.inr (.inr ⟨es, hwait, rfl⟩), hq⟩
  · rw [shown, List.append_nil]
    exact .inr (by rwa [inFlight, hq, hst])
  · obtain ⟨hst, w, hw, rfl⟩ := inFlight_waiting hes hp
    rw [shown, idleWord_nextSt_polling hst]
    exact .inl ⟨.inl (.inr ⟨w, status, hw, rfl⟩), hq⟩
  · rw [inFlight_none hes hp, List.nil_append]
    obtain ⟨-, hq, r, shown⟩ | ⟨-, hw, hst, ⟨hq, status, shown⟩ | ⟨hq, hkeep, shown⟩⟩ := accepted <;> rw [shown]
    · exact .inl ⟨.inl (.inl ⟨w, r, rfl⟩), hq⟩
    · exact .inl ⟨.inl (.inr ⟨w, status, hw, rfl⟩), hq⟩
    · exact .inr (.inr ⟨hq, by rwa [hkeep], w, hw, rfl⟩)

/-- With the events of what was in flight before it, a run is completed commands and resets, then what is in flight after it. -/
theorem events_serial {n : Nat} {s t : State} {es : List PortEvent} (hes : inFlight s es) (h : run n s = .next t) :
    ∃ (done : List (List PortEvent)) (last : List PortEvent), es ++ events n s = done.flatten ++ last ∧
      (∀ unit ∈ done, isCompleted unit ∨ isReset unit) ∧ inFlight t last := by
  induction n generalizing s es with
  | zero =>
    cases h
    exact ⟨[], es, by simp, by simp, hes⟩
  | succ n ih =>
    obtain ⟨u, hstep⟩ := step_next s
    rw [run_succ hstep] at h
    rw [events_succ hstep, ← List.append_assoc]
    obtain ⟨hunit, hq⟩ | hopen := step_inFlight hes hstep
    · obtain ⟨done, last, hsplit, hdone, hlast⟩ := ih (inFlight_of_ready hq) h
      refine ⟨(es ++ stepEvents s) :: done, last, ?_, List.forall_mem_cons.mpr ⟨hunit, hdone⟩, hlast⟩
      rw [List.flatten_cons, List.append_assoc _ done.flatten, ← hsplit, List.nil_append]
    · exact ih hopen h

theorem runEnded_iff (s : State) : runEnded s = true ↔ s.host = [] ∧ s.pending = none := by
  simp [runEnded]

/-- A run has an end state exactly where it has ended. -/
theorem endState_eq_some_iff {n : Nat} {s : State} {e : EndState} : endState n s = some e ↔
    ∃ t, run n s = .next t ∧ t.host = [] ∧ t.pending = none ∧ e = ⟨t.st, t.ts, (events n s).filter observable⟩ := by
  unfold endState
  cases run n s with
  | fault r => cases r
  | refused r => simp
  | next t => simp [runEnded_iff, and_assoc, eq_comm (a := e)]

/-- Settles O60: `events_account`, then `events_serial` from nothing in flight, and the end of a run as `endState_eq_some_iff`. -/
theorem endOfRun : Obligations.EndOfRun := by
  unfold Obligations.EndOfRun
  refine ⟨fun n s t h => ?_, fun n s e => endState_eq_some_iff⟩
  obtain ⟨hhost, hresp, hreads⟩ := events_account h
  refine ⟨hhost, hresp, hreads, fun hp => ?_⟩
  obtain ⟨done, last, hsplit, hdone, hlast⟩ := events_serial (inFlight_of_ready hp) h
  exact ⟨done, last, hsplit, hdone, inFlight_none hlast, fun hq => (inFlight_waiting hlast hq).2⟩

end Sys2Proof.Machine
end

section
/-! The encoder and the decoder are inverse to each other; the rows of the opcode table (30_encoding.md R60, R61, R65, R69). -/

namespace Sys2Proof

/-- Settles O2: OP of the encoded word selects the constructor, and the other fields give its operands back. -/
theorem decodeEncodeAgree : Obligations.DecodeEncodeAgree := by
  unfold Obligations.DecodeEncodeAgree
  intro i
  cases i with
  | dec2iq => simp [encode, decode_dec2iq]
  | iq2dec => simp [encode, decode_iq2dec]
  | arm => simp [encode, decode_arm]
  | tick => simp [encode, decode_tick]
  | _ rest => simp [encode, decode]

/-- The four fields of R60 make up the word. -/
theorem commandWord_fields (w : CmdWord) : commandWord (opField w) (rsvField w) (decField w) (opndField w) = w := by
  refine BitVec.eq_of_getLsbD_eq fun i hi => ?_
  rw [getLsbD_commandWord]
  simp only [opField, rsvField, decField, opndField, BitVec.getLsbD_extractLsb']
  split_ifs <;> simp (disch := omega) <;> omega

/-- So do OP and the 28 bits below it. -/
theorem reservedWord_fields (w : CmdWord) : reservedWord (opField w) (restField w) = w := by
  refine BitVec.eq_of_getLsbD_eq fun i hi => ?_
  rw [getLsbD_reservedWord]
  simp only [opField, restField, BitVec.getLsbD_extractLsb']
  split_ifs <;> simp (disch := omega) <;> omega

/-- Settles O3: the command's word is put together from the fields it was decoded from. -/
theorem encodeDecodeAgree : Obligations.EncodeDecodeAgree := by
  unfold Obligations.EncodeDecodeAgree
  intro w
  have command {op : BitVec 4} (h : opField w = op) : commandWord op (rsvField w) (decField w) (opndField w) = w :=
    h ▸ commandWord_fields w
  have reserved {op : BitVec 4} (h : opField w = op) : reservedWord op (restField w) = w := h ▸ reservedWord_fields w
  rcases opField_cases w with h | h | h | h | h | h | h | h | h | h | h | h | h | h | h | h <;> simp only [decode, h]
  case inr.inl | inr.inr.inl | inr.inr.inr.inl | inr.inr.inr.inr.inl => exact command h
  all_goals exact reserved h

/-- The masks of spec/opcode_table.json leave OP alone. -/
theorem and_opMask (w : CmdWord) : w &&& 0xF0000000#32 = reservedWord (opField w) 0#28 := by
  have mask : 0xF0000000#32 = reservedWord 0xF#4 0#28 := rfl
  refine BitVec.eq_of_getLsbD_eq fun i hi => ?_
  rw [mask, BitVec.getLsbD_and, getLsbD_reservedWord, getLsbD_reservedWord, opField, BitVec.getLsbD_extractLsb']
  split_ifs with h
  · simp
  · have hop : i - 28 < 4 := by omega
    have ones : (0xF#4).getLsbD (i - 28) = true := by simpa [hop] using BitVec.getLsbD_allOnes (v := 4) (i := i - 28)
    rw [ones, decide_eq_true hop, Bool.and_true, Bool.true_and, Nat.add_sub_cancel' (by omega)]

theorem mask_of_mem_opcodeTable : ∀ r ∈ opcodeTable, r.mask = 0xF0000000#32 := by decide

/-- A row of the table selects a word by the word's OP. -/
theorem selects_iff {r : OpcodeRow} (h : r ∈ opcodeTable) (w : CmdWord) :
    r.selects w = true ↔ reservedWord (opField w) 0#28 = r.pattern := by
  rw [OpcodeRow.selects, mask_of_mem_opcodeTable r h, and_opMask, beq_iff_eq]

theorem countP_pattern_eq_one (op : BitVec 4) :
    opcodeTable.countP (fun r => reservedWord op 0#28 = r.pattern) = 1 := by
  revert op; decide

/-- The mnemonic of a word depends on its OP alone (30_encoding.md R61). -/
theorem mnemonicOf_decode_congr {w v : CmdWord} (h : opField w = opField v) :
    mnemonicOf (decode w) = mnemonicOf (decode v) := by
  rcases opField_cases v with k | k | k | k | k | k | k | k | k | k | k | k | k | k | k | k <;>
    simp only [decode, h.trans k, k] <;> rfl

theorem mnemonic_of_mem_opcodeTable : ∀ r ∈ opcodeTable, r.mnemonic = mnemonicOf (decode r.pattern) := by decide

/-- Settles O4: the row that selects a word is the one whose pattern has the word's OP, and of those there is one. -/
theorem oneTableRowSelectsEachWord : Obligations.OneTableRowSelectsEachWord := by
  unfold Obligations.OneTableRowSelectsEachWord
  intro w
  constructor
  · rw [← countP_pattern_eq_one (opField w)]
    exact List.countP_congr fun r hr => by rw [selects_iff hr, decide_eq_true_iff]
  · intro r hr hsel
    have hop : opField r.pattern = opField w := by rw [← (selects_iff hr w).mp hsel, opField_reservedWord]
    rw [mnemonic_of_mem_opcodeTable r hr, opOf_decode]
    exact ⟨mnemonicOf_decode_congr hop, hop⟩

/-- Settles O1: the decoder is run on each of the thirteen words. -/
theorem workedWordsDecode : Obligations.WorkedWordsDecode := by
  unfold Obligations.WorkedWordsDecode
  decide

end Sys2Proof
end

section
/-! What every step keeps and writes: acceptance, the invariant, the timestamp (30_encoding.md R70; 10_state.md R22, R23, R35). -/

namespace Sys2Proof.Machine

open Sys2Proof.Safety

theorem step_accept {s : State} {w : CmdWord} (h : nextEvent s = .accept w) : step s = exec (decode w) (popHost s) := by
  simp [step, h]

/-- Settles O10: the step that accepts runs the command after `popHost`. -/
theorem stepRunsDecodedCommand : Obligations.StepRunsDecodedCommand := by
  unfold Obligations.StepRunsDecodedCommand
  intro s w rest hhost hp
  rw [step_accept (nextEvent_accept hhost hp), popHost, hhost, List.tail_cons]

/-- A word is accepted exactly where it stands at the front of the host's list and nothing is pending. -/
theorem nextEvent_accept_iff {s : State} {w : CmdWord} :
    nextEvent s = .accept w ↔ (∃ rest, s.host = .command w :: rest) ∧ s.pending = none := by
  rcases hh : s.host with _ | ⟨_ | _, rest⟩ <;> rcases hp : s.pending with _ | now <;> simp [nextEvent, hh, hp]

theorem cmdOffered_iff {s : State} {w : CmdWord} : cmdOffered s = some w ↔ ∃ rest, s.host = .command w :: rest := by
  rcases hh : s.host with _ | ⟨_ | _, rest⟩ <;> simp [cmdOffered, hh]

/-- Settles O11: after an accepted command either its response is given and nothing is pending, or neither. -/
theorem commandAcceptedWhenValidAndReady : Obligations.CommandAcceptedWhenValidAndReady := by
  unfold Obligations.CommandAcceptedWhenValidAndReady
  refine ⟨fun s w => by rw [nextEvent_accept_iff, cmdOffered_iff, cmdReady, Option.isNone_iff_eq_none], fun s t w hn h => ?_⟩
  have hp := (nextEvent_accept_iff.mp hn).2
  obtain ⟨u, hexec, outcome⟩ := noCommandFails.1 (decode w) (popHost s) hp
  obtain rfl : t = u := by simpa [step_accept hn, hexec, eq_comm] using h
  obtain ⟨hpend, hrsp⟩ | ⟨-, -, hpend, hrsp, -⟩ := outcome
  · rw [cmdReady, rspValid, hpend, hrsp, Option.isNone_none]
  · rw [cmdReady, rspValid, hrsp, Option.isSome_none, Option.isNone_eq_false_iff, hpend]

/-! ### The invariant -/

/-- The transition function leads to one of the five states (10_state.md R22). -/
theorem nextSt_recognized (p : Config.Params) (st : BitVec 3) (ts : BitVec 16) (busy : Bool) (now : BitVec 16) :
    phaseOf (nextSt p st ts busy now) ≠ .unrecognized := by
  rcases st_cases st with rfl | rfl | rfl | rfl | rfl | h
  case inr.inr.inr.inr.inr => simp [nextSt_unrecognized _ _ _ _ h]
  case inr.inr.inr.inl =>
    rw [nextSt_waitingSettle]
    split_ifs <;> simp
  all_goals cases busy <;> simp

/-- The invariant, field by field. -/
theorem trackerInv_iff (s : State) : TrackerInv s ↔ phaseOf s.st ≠ .unrecognized ∧
    (s.pending ≠ none → (s.st = stStart ∨ s.st = stPollingBusy) ∧ s.rsp = none) := by
  rw [TrackerInv, recognized, pendingReads, pendingSilent]
  cases s.pending with
  | none => simp
  | some now => simp [readsStatus_hardware_iff]

/-- With nothing pending the invariant says that `st` is recognized. -/
theorem trackerInv_of_ready {s : State} (hp : s.pending = none) (h : phaseOf s.st ≠ .unrecognized) : TrackerInv s :=
  (trackerInv_iff s).mpr ⟨h, fun hq => absurd hp hq⟩

theorem completeTick_inv {p : Config.Params} {now : BitVec 16} {busy : Bool} {s : State} (hp : s.pending = none) :
    TrackerInv (completeTick p now busy s) :=
  trackerInv_of_ready hp (by rw [completeTick_st]; exact nextSt_recognized p s.st s.ts busy now)

theorem tickWith_keeps_inv {now : BitVec 16} {s : State} (hp : s.pending = none) (h : TrackerInv s) :
    TrackerInv (tickWith Config.hardware now s) := by
  obtain ⟨-, e⟩ | ⟨-, status, c, -, e⟩ | ⟨reads, c, -, e⟩ := tickWith_cases Config.hardware now s <;> rw [e]
  · exact completeTick_inv hp
  · exact completeTick_inv rfl
  · exact (trackerInv_iff _).mpr ⟨((trackerInv_iff s).mp h).1, fun _ => ⟨readsStatus_hardware_iff.mp reads, rfl⟩⟩

theorem awaitAnswer_keeps_inv {now : BitVec 16} {s : State} (h : TrackerInv s) :
    TrackerInv (awaitAnswer Config.hardware now s) := by
  obtain ⟨status, rest, -, e⟩ | ⟨rest, -, e⟩ := awaitAnswer_cases Config.hardware now s <;> rw [e]
  · exact completeTick_inv rfl
  · exact h

/-- Settles O53: by the event of the step. -/
theorem everyStepKeepsInvariant : Obligations.EveryStepKeepsInvariant := by
  unfold Obligations.EveryStepKeepsInvariant
  intro s t h hstep
  have known := ((trackerInv_iff s).mp h).1
  obtain ⟨-, -, -, e⟩ | ⟨now, -, -, -, e⟩ | ⟨w, -, -, hp, -, e⟩ | ⟨-, -, -, e⟩ := step_cases s <;> rw [hstep] at e
  · cases e
    exact trackerInv_of_ready rfl (by simp)
  · cases e
    exact awaitAnswer_keeps_inv h
  · obtain ⟨-, -, r, e'⟩ | ⟨-, e'⟩ | ⟨-, e'⟩ := exec_cases w (popHost s) <;> rw [e'] at e <;> cases e
    · exact trackerInv_of_ready hp known
    · exact trackerInv_of_ready hp (by simp)
    · exact tickWith_keeps_inv hp h
  · cases e
    exact h

/-- Settles O54: nothing is pending after reset, and Start is recognized. -/
theorem invariantHoldsAtReset : Obligations.InvariantHoldsAtReset := by
  unfold Obligations.InvariantHoldsAtReset
  exact trackerInv_of_ready reset_pending (by simp)

/-! ### The timestamp -/

/-- TICK never writes the timestamp (41_tracker.md R122). -/
@[simp] theorem tickWith_ts (p : Config.Params) (now : BitVec 16) (s : State) : (tickWith p now s).ts = s.ts := by
  obtain ⟨-, e⟩ | ⟨-, status, c, -, e⟩ | ⟨-, c, -, e⟩ := tickWith_cases p now s <;> simp [e]

/-- Settles O50: by the event of the step and, for an accepted word, the kind of its command. -/
theorem onlyArmAndResetWriteTimestamp : Obligations.OnlyArmAndResetWriteTimestamp := by
  unfold Obligations.OnlyArmAndResetWriteTimestamp
  intro s t hstep
  obtain ⟨-, -, hn, e⟩ | ⟨now, -, -, -, e⟩ | ⟨w, -, -, -, hn, e⟩ | ⟨-, -, -, e⟩ := step_cases s <;> rw [hstep] at e
  · cases e
    exact .inr (.inr ⟨hn, rfl⟩)
  · cases e
    exact .inl (awaitAnswer_frame ..).2.1
  · obtain ⟨-, -, r, e'⟩ | ⟨harm, e'⟩ | ⟨-, e'⟩ := exec_cases w (popHost s) <;> rw [e'] at e <;> cases e
    · exact .inl rfl
    · exact .inr (.inl ⟨w, hn, harm, rfl⟩)
    · exact .inl (tickWith_ts ..)
  · cases e
    exact .inl rfl

end Sys2Proof.Machine
end

section
/-! A timestamp that no TICK can read before an ARM writes it is unobservable (10_state.md R36). -/

namespace Sys2Proof.Machine

open Sys2Proof.Safety

/-- The machine with another timestamp. -/
def withTs (ts : BitVec 16) (s : State) : State := { s with ts := ts }

/-- No TICK in this state, nor in one it leads to before an ARM, looks at the timestamp. -/
def ignoresTs (st : BitVec 3) : Prop := st ≠ stWriteIssued ∧ st ≠ stWaitingSettle

@[simp] theorem withTs_st (ts : BitVec 16) (s : State) : (withTs ts s).st = s.st := rfl
@[simp] theorem withTs_ts (ts : BitVec 16) (s : State) : (withTs ts s).ts = ts := rfl
@[simp] theorem withTs_pending (ts : BitVec 16) (s : State) : (withTs ts s).pending = s.pending := rfl
@[simp] theorem withTs_rsp (ts : BitVec 16) (s : State) : (withTs ts s).rsp = s.rsp := rfl
@[simp] theorem withTs_host (ts : BitVec 16) (s : State) : (withTs ts s).host = s.host := rfl

theorem phaseOf_reads_ts_iff (st : BitVec 3) : (phaseOf st = .writeIssued ∨ phaseOf st = .waitingSettle) ↔ ¬ ignoresTs st := by
  unfold ignoresTs
  revert st; decide

/-- States related by R36 are equal, or differ in the timestamp alone where it is ignored. -/
theorem sameButUnreadTs_iff {s t : State} :
    sameButUnreadTs s t ↔ t = s ∨ (ignoresTs s.st ∧ ∃ ts, t = withTs ts s) := by
  rw [sameButUnreadTs, phaseOf_reads_ts_iff]
  constructor
  · rintro ⟨ht, hread⟩
    by_cases h : ignoresTs s.st
    · exact .inr ⟨h, t.ts, ht⟩
    · exact .inl (by rw [ht, hread h])
  · rintro (rfl | ⟨h, ts, rfl⟩)
    · exact ⟨rfl, fun _ => rfl⟩
    · exact ⟨rfl, fun h' => absurd h h'⟩

section
variable {p : Config.Params} {st : BitVec 3} (h : ignoresTs st)
include h

/-- Only the settle test looks at the timestamp. -/
theorem nextSt_ts_congr (a b now : BitVec 16) (busy : Bool) : nextSt p st a busy now = nextSt p st b busy now := by
  obtain ⟨-, hwait⟩ := h
  rcases st_cases st with rfl | rfl | rfl | rfl | rfl | hu
  case inr.inr.inr.inl => exact absurd rfl hwait
  case inr.inr.inr.inr.inr => rw [nextSt_unrecognized _ _ _ _ hu, nextSt_unrecognized _ _ _ _ hu]
  all_goals rfl

/-- A TICK does not lead to where the timestamp is read. -/
theorem ignoresTs_nextSt (ts now : BitVec 16) (busy : Bool) : ignoresTs (nextSt p st ts busy now) := by
  by_cases e : nextSt p st ts busy now = st
  · rwa [e]
  · obtain ⟨-, -, hwrite, hwait, -⟩ := nextSt_moves rfl e
    exact ⟨hwrite, fun e' => absurd (hwait e') h.1⟩

end

section
variable {p : Config.Params} {s : State} (h : ignoresTs s.st) (ts now : BitVec 16)
include h

theorem completeTick_withTs (busy : Bool) :
    completeTick p now busy (withTs ts s) = withTs ts (completeTick p now busy s) := by
  rw [completeTick, completeTick, withTs_ts, withTs_st, nextSt_ts_congr h ts s.ts]
  rfl

theorem awaitAnswer_withTs :
    awaitAnswer p now (withTs ts s) = withTs ts (awaitAnswer p now s) ∧ ignoresTs (awaitAnswer p now s).st := by
  obtain ⟨status, c, hc, e⟩ | ⟨c, hc, e⟩ := awaitAnswer_cases p now s
  · rw [e, awaitAnswer_answered (s := withTs ts s) hc]
    exact ⟨completeTick_withTs (s := { s with pending := none, collab := c }) h ts now _, ignoresTs_nextSt h ..⟩
  · rw [e, awaitAnswer_unanswered (s := withTs ts s) hc]
    exact ⟨rfl, h⟩

theorem tickWith_withTs :
    tickWith Config.hardware now (withTs ts s) = withTs ts (tickWith Config.hardware now s) ∧
      ignoresTs (tickWith Config.hardware now s).st := by
  rw [tickWith, tickWith, withTs_st, readsStatus_hardware_congr s.ts now]
  split
  · exact awaitAnswer_withTs (s := issueRead now s) h ts now
  · exact ⟨completeTick_withTs h ts now false, ignoresTs_nextSt h ..⟩

/-- A command, and so a step, from a state with another ignored timestamp leads to the same state, or to the same but for the
timestamp, which is ignored still. -/
theorem exec_withTs {i : Instr} {s' : State} (hexec : exec i s = .next s') :
    exec i (withTs ts s) = .next s' ∨ (ignoresTs s'.st ∧ exec i (withTs ts s) = .next (withTs ts s')) := by
  cases i with
  | arm =>
    cases hexec
    exact .inl rfl
  | tick rsv dec now =>
    obtain rfl : tickWith Config.hardware now s = s' := by simpa using hexec
    obtain ⟨same, ignored⟩ := tickWith_withTs h ts now
    exact .inr ⟨ignored, by rw [exec_tick, same]⟩
  | _ =>
    cases hexec
    exact .inr ⟨h, rfl⟩

theorem step_withTs {s' : State} (hstep : step s = .next s') :
    step (withTs ts s) = .next s' ∨ (ignoresTs s'.st ∧ step (withTs ts s) = .next (withTs ts s')) := by
  obtain ⟨rest, hhost, -, e⟩ | ⟨now, hhost, hp, -, e⟩ | ⟨w, rest, hhost, hp, -, e⟩ | ⟨hhost, hp, -, e⟩ := step_cases s <;>
    rw [hstep] at e
  · cases e
    exact .inl (stepEvents_reset (s := withTs ts s) hhost).1
  · cases e
    obtain ⟨same, ignored⟩ := awaitAnswer_withTs (p := Config.hardware) h ts now
    exact .inr ⟨ignored, by rw [step_awaiting (s := withTs ts s) hhost hp, same]⟩
  · rw [step_accept (nextEvent_accept (s := withTs ts s) hhost hp)]
    exact exec_withTs (s := popHost s) h ts e.symm
  · cases e
    exact .inr ⟨h, (stepEvents_quiet (s := withTs ts s) hhost hp).1⟩

end

/-- The response event of a step is read off its event, and off what it leaves of `pending` and `rsp`. -/
theorem stepResponse_congr {s t s' t' : State} (hn : nextEvent t = nextEvent s) (hs : step s = .next s') (ht : step t = .next t')
    (hp : t'.pending = s'.pending) (hr : t'.rsp = s'.rsp) : stepResponse t = stepResponse s := by
  rw [stepResponse, stepResponse, hn, hs, ht]
  cases nextEvent s <;> simp [hp, hr]

/-- Settles O51: a step keeps the difference in an ignored timestamp or removes it, and Start ignores the timestamp. -/
theorem unreadTimestampIsUnobservable : Obligations.UnreadTimestampIsUnobservable := by
  unfold Obligations.UnreadTimestampIsUnobservable
  refine ⟨fun s t s' hsame hstep => ?_, fun ts => ?_⟩
  · obtain rfl | ⟨h, ts, rfl⟩ := sameButUnreadTs_iff.mp hsame
    · exact ⟨s', hstep, sameButUnreadTs_iff.mpr (.inl rfl), rfl⟩
    · have hn : nextEvent (withTs ts s) = nextEvent s := rfl
      obtain hstep' | ⟨ignored, hstep'⟩ := step_withTs h ts hstep
      · exact ⟨s', hstep', sameButUnreadTs_iff.mpr (.inl rfl), stepResponse_congr hn hstep hstep' rfl rfl⟩
      · exact ⟨withTs ts s', hstep', sameButUnreadTs_iff.mpr (.inr ⟨ignored, ts, rfl⟩),
          stepResponse_congr hn hstep hstep' rfl rfl⟩
  · exact sameButUnreadTs_iff.mpr (.inr ⟨by simp [ignoresTs, st_literals], ts, rfl⟩)

end Sys2Proof.Machine
end

section
/-! Every working value of a conversion is an int16 (40_converter.md R91, R101). -/

namespace Sys2Proof.Machine

open Sys2Proof.Safety

section
variable {P : Int → Prop} {guard : Int → Bool} {prefer fall : Int → Int} {p q : Nat} {v w : Int}
variable (hp : ∀ w, P w → guard w = true → P (prefer w))
include hp

/-- A property the guarded preferred step keeps holds of every value on the way. -/
theorem preferTrace_keeps (hw : P w) (hv : v ∈ preferTrace guard prefer p w) : P v := by
  induction p generalizing w with
  | zero =>
    rw [preferTrace, List.mem_singleton] at hv
    exact hv ▸ hw
  | succ p ih =>
    rw [preferTrace] at hv
    split at hv
    next h =>
      obtain rfl | hv := List.mem_cons.mp hv
      · exact hw
      · exact ih (hp w hw h) hv
    next => exact List.mem_singleton.mp hv ▸ hw

/-- A property both steps keep holds of every working value of the rounds. -/
theorem rescaleTrace_keeps (hf : ∀ w, P w → P (fall w)) (hw : P w) (hv : v ∈ rescaleTrace guard prefer fall q p w) : P v := by
  induction q generalizing p w with
  | zero => exact preferTrace_keeps hp hw hv
  | succ q ih =>
    rw [rescaleTrace, List.mem_append] at hv
    obtain hv | hv := hv
    · exact preferTrace_keeps hp hw hv
    · exact ih (hf _ (preferSteps_keeps P guard prefer hp p w hw)) hv

end

/-- Settles O25: a guarded doubling and a division by 5 stay within int16, and seven rounds of fuel cover both budgets. -/
theorem dec2iqNeverOverflows : Obligations.Dec2iqNeverOverflows := by
  unfold Obligations.Dec2iqNeverOverflows
  intro d v hd hv
  refine ⟨fun w => rescaleTrace_keeps (fun _ _ => isInt16_double) (fun _ => isInt16_tdiv5) hv, ?_⟩
  rw [dec2iqLoop_eq 7 v (7 - d) d (by omega), Option.isSome_some]

/-- Settles O26: likewise for a guarded multiplication by 5 and a shift. -/
theorem iq2decNeverOverflows : Obligations.Iq2decNeverOverflows := by
  unfold Obligations.Iq2decNeverOverflows
  intro d v hd hv _
  refine ⟨fun w => rescaleTrace_keeps (fun _ _ => isInt16_quintuple) (fun _ => isInt16_asr1) hv, ?_⟩
  rw [iq2decLoop_eq 7 v (7 - d) d (by omega), Option.isSome_some]

end Sys2Proof.Machine
end

section
/-! The unanswered TICK, the transition table, and the settle test on true times (20_memory.md R48; 41_tracker.md R122, R136;
70_reset_and_hazards.md R187). -/

namespace Sys2Proof.Machine

open Sys2Proof.Safety

/-- A wait that is not answered changes the script alone. -/
theorem step_unanswered {now : BitVec 16} {s : State} {c : Collaborator} (hp : s.pending = some now)
    (hh : s.host.head? ≠ some .reset) (hc : s.collab.poll s.reads = (none, c)) : step s = .next { s with collab := c } := by
  rw [step_awaiting hh hp, awaitAnswer_unanswered hc]

/-- A state that a step leads back to is where every run from it ends. -/
theorem run_fixed {s : State} (h : step s = .next s) (n : Nat) : run n s = .next s := by
  induction n with
  | zero => rfl
  | succ n ih => rw [run_succ h, ih]

/-- Settles O43: the TICK waits, each unanswered event changes the script alone, and a script that never answers not at all. -/
theorem unansweredTickStaysPending : Obligations.UnansweredTickStaysPending := by
  unfold Obligations.UnansweredTickStaysPending
  refine ⟨fun rsv dec now s c hst hc => ?_, fun now s c => step_unanswered, fun n s hp hh hc => run_fixed ?_ n⟩
  · rw [exec_tick, tickWith_unanswered (readsStatus_polling hst) hc]
  · obtain ⟨now, hp⟩ := Option.isSome_iff_exists.mp hp
    rw [step_unanswered hp hh (by rw [hc, poll_silent]), ← hc]

theorem nextSt_waitingSettle_hardware {ts now : BitVec 16} {busy : Bool} :
    nextSt Config.hardware stWaitingSettle ts busy now =
      if Config.hardware.settleDelay.val < (now - ts).toNat then stPollingBusy else stWaitingSettle := by
  simp only [nextSt_waitingSettle, hardware_fallthrough, Bool.false_and, Bool.false_eq_true, if_false, ← settled_iff]

/-- Settles O45: `nextSt` row by row, and of a TICK everything it can do. -/
theorem tickFollowsTransitionTable : Obligations.TickFollowsTransitionTable := by
  unfold Obligations.TickFollowsTransitionTable
  refine ⟨fun ts now busy => ⟨rfl, rfl, rfl, rfl, fun h => ?_, fun h => ?_, rfl, rfl, rfl, rfl, rfl⟩, fun rsv dec now s t h => ?_⟩
  · rw [nextSt_waitingSettle_hardware, if_neg (not_lt.mpr h)]
  · rw [nextSt_waitingSettle_hardware, if_pos h]
  · obtain rfl : tickWith Config.hardware now s = t := by simpa using h
    refine ⟨tickWith_ts .., fun hp hq => ?_⟩
    obtain ⟨-, e⟩ | ⟨-, status, c, hc, e⟩ | ⟨-, c, -, e⟩ := tickWith_cases Config.hardware now s <;> rw [e] at hq ⊢
    · exact ⟨false, rfl, fun hne => absurd rfl hne⟩
    · exact ⟨status.getLsbD 13, rfl, fun _ => ⟨status, c, hc, rfl⟩⟩
    · simp at hq

/-- The elapsed time between two true times of one millisecond counter. -/
theorem toNat_elapsed_ofNat {armed later : Nat} (h : armed ≤ later) :
    (elapsed (BitVec.ofNat 16 later) (BitVec.ofNat 16 armed)).toNat = (later - armed) % 65536 := by
  rw [elapsed, BitVec.toNat_sub, BitVec.toNat_ofNat, BitVec.toNat_ofNat]
  omega

/-- Settles O56: the elapsed time is at most the true one, and equal to it below 65536. -/
theorem settleTestNeverEarly : Obligations.SettleTestNeverEarly := by
  unfold Obligations.SettleTestNeverEarly
  intro p armed later h
  have test : settled p (BitVec.ofNat 16 armed) (BitVec.ofNat 16 later) = true ↔
      p.settleDelay.val < (later - armed) % 65536 := by
    rw [settled_iff, ← toNat_elapsed_ofNat h, elapsed]
  refine ⟨toNat_elapsed_ofNat h, fun hs => ?_, fun hlt => ?_⟩
  · exact (test.mp hs).trans_le (Nat.mod_le _ _)
  · rw [test, Nat.mod_eq_of_lt hlt]

end Sys2Proof.Machine
end

section
/-! Runs of TICKs after an ARM: the settle guarantee, and the way to Idle (41_tracker.md R136, R140). -/

namespace Sys2Proof.Machine

open Sys2Proof.Safety

/-- The step from WaitingSettle to PollingBusy accepts a TICK that passes the settle test, and reads nothing. -/
theorem step_into_pollingBusy {s t : State} (hinv : TrackerInv s) (hstep : step s = .next t) (hs : s.st = stWaitingSettle)
    (ht : t.st = stPollingBusy) :
    ∃ w, nextEvent s = .accept w ∧ isTick w ∧ settled Config.hardware s.ts (opndField w) = true ∧ t.reads = s.reads := by
  have moved : t.st ≠ s.st := by simp [hs, ht, st_literals]
  have ready : s.pending = none := by
    by_contra hp
    obtain ⟨hst, -⟩ := ((trackerInv_iff s).mp hinv).2 hp
    simp [hs, st_literals] at hst
  obtain ⟨-, -, -, e⟩ | ⟨now, -, hp, -, -⟩ | ⟨w, rest, hhost, -, hn, e⟩ | ⟨-, -, -, e⟩ := step_cases s
  · cases hstep.symm.trans e
    simp [st_literals] at ht
  · simp [ready] at hp
  · obtain ⟨-, -, r, e'⟩ | ⟨-, e'⟩ | ⟨hw, -⟩ := exec_cases w (popHost s)
    · cases hstep.symm.trans (e.trans e')
      exact absurd rfl moved
    · cases hstep.symm.trans (e.trans e')
      simp [st_literals] at ht
    · cases hstep.symm.trans (step_tick_waitingSettle hhost ready hw hs).1
      refine ⟨w, hn, hw, ?_, rfl⟩
      by_contra early
      simp [early, st_literals] at ht
  · cases hstep.symm.trans e
    exact absurd rfl moved

/-- What is among the first words after `w` is among one word more from `w` on. -/
theorem exists_mem_take_cons {P : CmdWord → Prop} {n : Nat} {w : CmdWord} {ws : List CmdWord}
    (h : ∃ v ∈ ws.take (n - 1), P v) : ∃ v ∈ (w :: ws).take n, P v := by
  obtain ⟨v, hv, hP⟩ := h
  cases n with
  | zero => simp at hv
  | succ n => exact ⟨v, List.mem_cons_of_mem w hv, hP⟩

/-- A run of TICKs in WaitingSettle reads only after a TICK that passes the settle test, and only such a TICK ends the wait. -/
theorem run_waitingSettle {n : Nat} {ws : List CmdWord} {rest : List HostEvent} {s t : State} (hst : s.st = stWaitingSettle)
    (hp : s.pending = none) (hhost : s.host = commands ws ++ rest) (hn : n ≤ ws.length) (hticks : ∀ w ∈ ws, isTick w)
    (hrun : run n s = .next t) :
    (t.reads ≠ s.reads → ∃ w ∈ ws.take (n - 1), settled Config.hardware s.ts (opndField w) = true) ∧
    (t.st ≠ stWaitingSettle → ∃ w ∈ ws.take n, settled Config.hardware s.ts (opndField w) = true) := by
  induction n generalizing ws s with
  | zero =>
    cases hrun
    exact ⟨fun h => absurd rfl h, fun h => absurd hst h⟩
  | succ n ih =>
    obtain ⟨w, ws, rfl⟩ := List.exists_cons_of_length_pos (Nat.zero_lt_of_lt hn)
    obtain ⟨hw, hticks⟩ := List.forall_mem_cons.mp hticks
    obtain ⟨hstep, -⟩ := step_tick_waitingSettle hhost hp hw hst
    rw [run_succ hstep] at hrun
    cases late : settled Config.hardware s.ts (opndField w) with
    | true =>
      refine ⟨fun h => ⟨w, ?_, late⟩, fun _ => ⟨w, by simp, late⟩⟩
      cases n with
      | zero =>
        cases hrun
        exact absurd rfl h
      | succ n => simp
    | false =>
      rw [late] at hrun
      obtain ⟨reads, leaves⟩ := ih (ws := ws)
        (s := { s with st := stWaitingSettle, rsp := some 0x0000#16, host := commands ws ++ rest })
        rfl hp rfl (Nat.le_of_succ_le_succ hn) hticks hrun
      exact ⟨fun h => exists_mem_take_cons (reads h), fun h => exists_mem_take_cons (leaves h)⟩

/-- Settles O55: the first TICK leads to WaitingSettle, and `run_waitingSettle` is the rest of the run. -/
theorem settleGuarantee : Obligations.SettleGuarantee := by
  unfold Obligations.SettleGuarantee
  simp only [← settled_iff]
  refine ⟨fun s t => step_into_pollingBusy, fun n ws rest s t hst hp hhost hn hticks hrun => ?_⟩
  cases n with
  | zero =>
    cases hrun
    exact ⟨fun h => absurd rfl h, fun h => absurd hst h⟩
  | succ n =>
    obtain ⟨w, ws, rfl⟩ := List.exists_cons_of_length_pos (Nat.zero_lt_of_lt hn)
    obtain ⟨hw, hticks⟩ := List.forall_mem_cons.mp hticks
    rw [run_succ (step_tick_writeIssued hhost hp hw hst).1] at hrun
    obtain ⟨reads, leaves⟩ := run_waitingSettle (ws := ws)
      (s := { s with st := stWaitingSettle, rsp := some 0x0000#16, host := commands ws ++ rest })
      rfl hp rfl (Nat.le_of_succ_le_succ hn) hticks hrun
    exact ⟨fun h => exists_mem_take_cons (reads h), fun _ h => exists_mem_take_cons (leaves h)⟩

/-- A run of `n` steps ends in Idle, and its last response says so. -/
def endsIdle (n : Nat) (s : State) : Prop := ∃ t, run n s = .next t ∧ t.st = stIdle ∧ t.rsp = some 0x0001#16

theorem endsIdle_succ {n : Nat} {s t : State} (hstep : step s = .next t) (h : endsIdle n t) : endsIdle (n + 1) s := by
  rwa [endsIdle, run_succ hstep]

section
variable {rest : List HostEvent}

/-- A TICK in Idle, or in an unrecognized state, reads nothing and leads to Idle. -/
theorem step_tick_idle {s : State} {w : CmdWord} (hhost : s.host = .command w :: rest) (hp : s.pending = none) (hw : isTick w)
    (hst : s.st = stIdle ∨ phaseOf s.st = .unrecognized) :
    step s = .next { s with st := stIdle, rsp := some 0x0001#16, host := rest } := by
  rw [step_tick hhost hp hw]
  rcases hst with h | h
  · rw [tickWith_unread (by simp [h])]
    simp [h]
  · rw [tickWith_unread (s := { s with host := rest }) (readsStatus_unrecognized _ _ _ h)]
    simp [nextSt_unrecognized _ _ _ _ h]

/-- TICKs in Idle stay there (41_tracker.md R126). -/
theorem endsIdle_idle {ws : List CmdWord} (hticks : ∀ w ∈ ws, isTick w) {s : State} (hst : s.st = stIdle)
    (hp : s.pending = none) (hrsp : s.rsp = some 0x0001#16) (hhost : s.host = commands ws ++ rest) : endsIdle ws.length s := by
  induction ws generalizing s with
  | nil => exact ⟨s, rfl, hst, hrsp⟩
  | cons w ws ih =>
    obtain ⟨hw, hticks⟩ := List.forall_mem_cons.mp hticks
    exact endsIdle_succ (step_tick_idle hhost hp hw (.inl hst)) (ih hticks rfl hp rfl rfl)

section
variable {busy : List (BitVec 16)} {last : BitVec 16} {c : Collaborator}
variable (hbusy : ∀ b ∈ busy, b.getLsbD 13 = true) (hlast : last.getLsbD 13 = false)
include hbusy hlast

/-- Where a TICK polls, more TICKs than busy reads lead to Idle (41_tracker.md R127, R130). -/
theorem endsIdle_polling {ws : List CmdWord} (hticks : ∀ w ∈ ws, isTick w) (hlen : busy.length < ws.length) {s : State}
    (hst : s.st = stStart ∨ s.st = stPollingBusy) (hp : s.pending = none) (hhost : s.host = commands ws ++ rest)
    (hcollab : s.collab = Collaborator.answers (busy ++ [last]) c) : endsIdle ws.length s := by
  induction busy generalizing ws s with
  | nil =>
    obtain ⟨w, ws, rfl⟩ := List.exists_cons_of_length_pos hlen
    obtain ⟨hw, hticks⟩ := List.forall_mem_cons.mp hticks
    have hstep := (step_tick_polling_idle hhost hp hw hst (by rw [hcollab]; rfl) hlast).1
    exact endsIdle_succ hstep (endsIdle_idle hticks rfl hp rfl rfl)
  | cons b busy ih =>
    obtain ⟨w, ws, rfl⟩ := List.exists_cons_of_length_pos (Nat.zero_lt_of_lt hlen)
    obtain ⟨hb, hbusy⟩ := List.forall_mem_cons.mp hbusy
    obtain ⟨hw, hticks⟩ := List.forall_mem_cons.mp hticks
    have hstep := (step_tick_polling_busy hhost hp hw hst (by rw [hcollab]; rfl) hb).1
    exact endsIdle_succ hstep (ih hbusy hticks (Nat.lt_of_succ_lt_succ hlen) hst hp rfl rfl)

/-- In WaitingSettle a TICK that passes the settle test, followed by more TICKs than busy reads, leads to Idle, whatever
TICKs come before it. -/
theorem endsIdle_waitingSettle {late : CmdWord} {mid after : List CmdWord} (hticks : ∀ w ∈ mid ++ late :: after, isTick w)
    (hlen : busy.length < after.length) {s : State} (hlate : settled Config.hardware s.ts (opndField late) = true)
    (hst : s.st = stWaitingSettle) (hp : s.pending = none) (hhost : s.host = commands (mid ++ late :: after) ++ rest)
    (hcollab : s.collab = Collaborator.answers (busy ++ [last]) c) : endsIdle (mid ++ late :: after).length s := by
  induction mid generalizing s with
  | nil =>
    obtain ⟨hw, hticks⟩ := List.forall_mem_cons.mp hticks
    have hstep := (step_tick_waitingSettle hhost hp hw hst).1
    rw [hlate, if_pos rfl] at hstep
    exact endsIdle_succ hstep (endsIdle_polling hbusy hlast hticks hlen (.inr rfl) hp rfl hcollab)
  | cons w mid ih =>
    obtain ⟨hw, hticks⟩ := List.forall_mem_cons.mp hticks
    have hstep := (step_tick_waitingSettle hhost hp hw hst).1
    refine endsIdle_succ hstep ?_
    cases settled Config.hardware s.ts (opndField w) with
    | true => exact endsIdle_polling hbusy hlast hticks (by simp; omega) (.inr rfl) hp rfl hcollab
    | false => exact ih hticks hlate rfl hp rfl hcollab

end

end

/-- Settles O59: by the state the first TICK finds. -/
theorem fairHostReachesIdle : Obligations.FairHostReachesIdle := by
  unfold Obligations.FairHostReachesIdle
  intro first late mid after busy last c rest s hp hhost hticks hlate hlen hcollab hbusy hlast
  rw [← settled_iff] at hlate
  obtain ⟨hfirst, hothers⟩ := List.forall_mem_cons.mp hticks
  change endsIdle _ s
  rcases st_cases s.st with h | h | h | h | h | h
  · exact endsIdle_succ (step_tick_idle hhost hp hfirst (.inl h)) (endsIdle_idle hothers rfl hp rfl rfl)
  · exact endsIdle_polling hbusy hlast hticks (by simp; omega) (.inl h) hp hhost hcollab
  · exact endsIdle_succ (step_tick_writeIssued hhost hp hfirst h).1
      (endsIdle_waitingSettle hbusy hlast hothers hlen hlate rfl hp rfl hcollab)
  · exact endsIdle_waitingSettle hbusy hlast (mid := first :: mid) hticks hlen hlate h hp hhost hcollab
  · exact endsIdle_polling hbusy hlast hticks (by simp; omega) (.inr h) hp hhost hcollab
  · exact endsIdle_succ (step_tick_idle hhost hp hfirst (.inr h)) (endsIdle_idle hothers rfl hp rfl rfl)

end Sys2Proof.Machine
end

section
/-! The numbers the disassembler prints, and how the assembler reads them back (30_encoding.md R67; log entry 13). -/

namespace Sys2Proof.Machine

/-- One decimal digit at least, and nothing else. -/
def digitText (cs : List Char) : Prop := cs ≠ [] ∧ ∀ c ∈ cs, ∃ d < 10, c = digitChar d

/-- A character with no part in the form of a line: no blank, no comma, no start of a comment, and no `x` of a hexadecimal. -/
def isPlain (c : Char) : Bool := !isBlank c && c != ',' && c != ';' && c != 'x'

/-- Such characters, at least one. -/
def plainText (cs : List Char) : Prop := cs ≠ [] ∧ ∀ c ∈ cs, isPlain c = true

theorem isPlain_iff (c : Char) : isPlain c = true ↔ isBlank c = false ∧ c ≠ ',' ∧ c ≠ ';' ∧ c ≠ 'x' := by
  simp [isPlain, and_assoc]

section
variable {d : Nat} (h : d < 10)
include h

theorem isPlain_digitChar : isPlain (digitChar d) = true := by interval_cases d <;> rfl

theorem digitChar_ne_minus : digitChar d ≠ '-' := by interval_cases d <;> decide

theorem digitsFrom_digitChar_cons (acc : Nat) (cs : List Char) :
    digitsFrom 10 decDigit? acc (digitChar d :: cs) = digitsFrom 10 decDigit? (acc * 10 + d) cs := by
  have value : decDigit? (digitChar d) = some d := by interval_cases d <;> rfl
  rw [digitsFrom, value]

end

theorem plainText_of_digitText {cs : List Char} (h : digitText cs) : plainText cs := by
  refine ⟨h.1, fun c hc => ?_⟩
  obtain ⟨d, hd, rfl⟩ := h.2 c hc
  exact isPlain_digitChar hd

theorem digitText_cons {d : Nat} (h : d < 10) {cs : List Char} (hcs : ∀ c ∈ cs, ∃ d < 10, c = digitChar d) :
    digitText (digitChar d :: cs) :=
  ⟨List.cons_ne_nil _ _, List.forall_mem_cons.mpr ⟨⟨d, h, rfl⟩, hcs⟩⟩

/-- Before digits a number is printed as digits, be it in no place. -/
theorem digitText_decimalText_before (k n : Nat) {cs : List Char} (h : digitText cs) : digitText (decimalText k n cs) := by
  induction k generalizing n cs with
  | zero => exact h
  | succ k ih =>
    rw [decimalText]
    split_ifs with hn
    · exact digitText_cons hn h.2
    · exact ih (n / 10) (digitText_cons (Nat.mod_lt n (by decide)) h.2)

/-- With one place at least, a number is printed as digits. -/
theorem digitText_decimalText (k n : Nat) : digitText (decimalText (k + 1) n []) := by
  have noDigits : ∀ c ∈ ([] : List Char), ∃ d < 10, c = digitChar d := List.forall_mem_nil _
  rw [decimalText]
  split_ifs with hn
  · exact digitText_cons hn noDigits
  · exact digitText_decimalText_before k (n / 10) (digitText_cons (Nat.mod_lt n (by decide)) noDigits)

/-- The printed digits spell the number. -/
theorem digitsFrom_decimalText {k n : Nat} (h : n < 10 ^ k) (cs : List Char) :
    digitsFrom 10 decDigit? 0 (decimalText k n cs) = digitsFrom 10 decDigit? n cs := by
  induction k generalizing n cs with
  | zero => rw [decimalText, Nat.lt_one_iff.mp h]
  | succ k ih =>
    rw [decimalText]
    split_ifs with hn
    · rw [digitsFrom_digitChar_cons hn, Nat.zero_mul, Nat.zero_add]
    · have hdiv : n / 10 < 10 ^ k := Nat.div_lt_of_lt_mul (by rwa [← pow_succ'])
      rw [ih hdiv, digitsFrom_digitChar_cons (Nat.mod_lt n (by decide)), Nat.div_add_mod']

theorem decimal?_decimalText {k n : Nat} (h : n < 10 ^ (k + 1)) : decimal? (decimalText (k + 1) n []) = some n := by
  have text := digitText_decimalText k n
  rw [decimal?, if_neg (by simp [text.1]), digitsFrom_decimalText h, digitsFrom]

/-! ### The operands -/

/-- A text without `x` is no hexadecimal. -/
theorem hex16?_plain {cs : List Char} (h : ∀ c ∈ cs, isPlain c = true) : hex16? cs = none := by
  unfold hex16?
  split
  · simp [isPlain] at h
  · rfl

theorem valueText?_minus {cs : List Char} (h : digitText cs) :
    valueText? ('-' :: cs) = (decimal? cs).bind fun n => if n ≤ 32768 then some (BitVec.ofInt 16 (-(n : Int))) else none := by
  have plain : ∀ c ∈ '-' :: cs, isPlain c = true := List.forall_mem_cons.mpr ⟨rfl, (plainText_of_digitText h).2⟩
  rw [valueText?, hex16?_plain plain]

theorem valueText?_digits {cs : List Char} (h : digitText cs) :
    valueText? cs = (decimal? cs).bind fun n => if n ≤ 32767 then some (BitVec.ofNat 16 n) else none := by
  rw [valueText?, hex16?_plain (plainText_of_digitText h).2]
  rintro ds rfl
  obtain ⟨d, hd, hc⟩ := h.2 '-' (by simp)
  exact digitChar_ne_minus hd hc.symm

theorem plainText_valueText (v : BitVec 16) : plainText (valueText v) := by
  have text := plainText_of_digitText (digitText_decimalText 4 v.toInt.natAbs)
  rw [valueText]
  split_ifs
  · exact ⟨List.cons_ne_nil _ _, List.forall_mem_cons.mpr ⟨rfl, text.2⟩⟩
  · exact text

/-- `<value>` reads back (30_encoding.md R67). -/
theorem valueText?_valueText (v : BitVec 16) : valueText? (valueText v) = some v := by
  have hmin := v.le_toInt
  have hmax := v.toInt_lt
  have text := digitText_decimalText 4 v.toInt.natAbs
  have number : decimal? (decimalText 5 v.toInt.natAbs []) = some v.toInt.natAbs := decimal?_decimalText (by omega)
  rw [valueText]
  split_ifs with hneg
  · have value : -(v.toInt.natAbs : Int) = v.toInt := by omega
    rw [valueText?_minus text, number, Option.bind_some, if_pos (by omega), value, BitVec.ofInt_toInt]
  · have value : (v.toInt.natAbs : Int) = v.toInt := by omega
    rw [valueText?_digits text, number, Option.bind_some, if_pos (by omega), ← BitVec.ofInt_natCast, value, BitVec.ofInt_toInt]

/-- `<decimals>` reads back. -/
theorem decimalsText?_decimalText (d : BitVec 8) : decimalsText? (decimalText 3 d.toNat []) = some d := by
  have h := d.isLt
  rw [decimalsText?, decimal?_decimalText (by omega), Option.bind_some, if_pos (by omega), BitVec.ofNat_toNat, BitVec.setWidth_eq]

/-- `<now>` reads back. -/
theorem nowText?_decimalText (now : BitVec 16) : nowText? (decimalText 5 now.toNat []) = some now := by
  have h := now.isLt
  have text := digitText_decimalText 4 now.toNat
  rw [nowText?, hex16?_plain (plainText_of_digitText text).2, decimal?_decimalText (by omega)]
  simp [Nat.le_of_lt_succ h]

end Sys2Proof.Machine
end

section
/-! The assembler on a printed line (30_encoding.md R67, R68). -/

namespace Sys2Proof.Machine

section
variable {a b m : List Char}

/-- Blanks are trimmed up to plain text on either side. -/
theorem dropWhile_plain_append (ha : plainText a) : (a ++ m).dropWhile isBlank = a ++ m := by
  obtain ⟨hne, hplain⟩ := ha
  obtain ⟨c, a, rfl⟩ := List.exists_cons_of_ne_nil hne
  rw [List.cons_append, List.dropWhile_cons_of_neg (by simp [((isPlain_iff c).mp (hplain c (by simp))).1])]

theorem plainText_reverse (ha : plainText a) : plainText a.reverse :=
  ⟨by simpa using ha.1, fun c hc => ha.2 c (List.mem_reverse.mp hc)⟩

theorem trimBlanks_plain_ends (ha : plainText a) (hb : plainText b) : trimBlanks (a ++ m ++ b) = a ++ m ++ b := by
  rw [trimBlanks, List.append_assoc, dropWhile_plain_append ha, ← List.append_assoc, List.reverse_append,
    dropWhile_plain_append (plainText_reverse hb), List.reverse_append, List.reverse_reverse, List.reverse_reverse]

/-- The blank before an operand is trimmed off. -/
theorem trimBlanks_blank_plain (ha : plainText a) : trimBlanks (' ' :: a) = a := by
  have drop {cs : List Char} (h : plainText cs) : cs.dropWhile isBlank = cs := by
    simpa using dropWhile_plain_append (m := []) h
  rw [trimBlanks, List.dropWhile_cons_of_pos rfl, drop ha, drop (plainText_reverse ha), List.reverse_reverse]

theorem splitCommas_part (h : ∀ c ∈ a, c ≠ ',') : splitCommas a = [a] := by
  induction a with
  | nil => rfl
  | cons c a ih =>
    obtain ⟨hc, h⟩ := List.forall_mem_cons.mp h
    rw [splitCommas, if_neg hc, ih h]

theorem splitCommas_part_comma (h : ∀ c ∈ a, c ≠ ',') (cs : List Char) : splitCommas (a ++ ',' :: cs) = a :: splitCommas cs := by
  induction a with
  | nil => rfl
  | cons c a ih =>
    obtain ⟨hc, h⟩ := List.forall_mem_cons.mp h
    rw [List.cons_append, splitCommas, if_neg hc, ih h]

/-- Plain text has none of the characters that are not plain. -/
theorem ne_of_plainText (ha : plainText a) {c : Char} (h : isPlain c = false) : ∀ x ∈ a, x ≠ c := by
  rintro x hx rfl
  simp [ha.2 x hx] at h

/-- A line of a mnemonic, a blank and what ends in plain text, with no comment, is the command the mnemonic and the parts spell. -/
theorem assembleLine_command {i : Instr} (hm : plainText m) (hb : plainText b) (ha : ∀ c ∈ a, c ≠ ';')
    (hi : commandText? m ((splitCommas (' ' :: (a ++ b))).map trimBlanks) = some i) :
    assembleLine (m ++ [' '] ++ a ++ b) = .word (encode i) := by
  have line : m ++ [' '] ++ a ++ b = m ++ ' ' :: (a ++ b) := by simp
  have uncommented : (m ++ [' '] ++ a ++ b).takeWhile (· != ';') = m ++ [' '] ++ a ++ b := by
    have noComment : ∀ c ∈ m ++ [' '] ++ a ++ b, c ≠ ';' := by
      simp only [List.forall_mem_append]
      exact ⟨⟨⟨ne_of_plainText hm rfl, by simp⟩, ha⟩, ne_of_plainText hb rfl⟩
    exact List.takeWhile_eq_self_iff.mpr fun c hc => by simp [noComment c hc]
  have trimmed : trimBlanks (m ++ [' '] ++ a ++ b) = m ++ ' ' :: (a ++ b) := by
    rw [List.append_assoc m, trimBlanks_plain_ends hm hb, ← List.append_assoc, line]
  have word : ∀ c ∈ m, (!isBlank c) = true := fun c hc => by simp [((isPlain_iff c).mp (hm.2 c hc)).1]
  have head : (m ++ ' ' :: (a ++ b)).takeWhile (!isBlank ·) = m := by
    rw [List.takeWhile_append_of_pos word, List.takeWhile_cons_of_neg (by decide), List.append_nil]
  have tail : (m ++ ' ' :: (a ++ b)).dropWhile (!isBlank ·) = ' ' :: (a ++ b) := by
    rw [List.dropWhile_append_of_pos word, List.dropWhile_cons_of_neg (by decide)]
  simp only [assembleLine]
  rw [uncommented, trimmed, head, tail, hi, if_neg (by simp)]

/-- A line with one operand. -/
theorem assembleLine_one {i : Instr} (hm : plainText m) (ha : plainText a) (hi : commandText? m [a] = some i) :
    assembleLine (m ++ [' '] ++ a) = .word (encode i) := by
  have parts : splitCommas (' ' :: a) = [' ' :: a] :=
    splitCommas_part (List.forall_mem_cons.mpr ⟨by decide, ne_of_plainText ha rfl⟩)
  have read : commandText? m ((splitCommas (' ' :: ([] ++ a))).map trimBlanks) = some i := by
    rw [List.nil_append, parts, List.map_singleton, trimBlanks_blank_plain ha, hi]
  simpa using assembleLine_command hm ha (List.forall_mem_nil _) read

/-- A line with two operands. -/
theorem assembleLine_two {i : Instr} (hm : plainText m) (ha : plainText a) (hb : plainText b)
    (hi : commandText? m [a, b] = some i) : assembleLine (m ++ [' '] ++ a ++ [',', ' '] ++ b) = .word (encode i) := by
  have noComma {cs : List Char} (h : plainText cs) : ∀ c ∈ ' ' :: cs, c ≠ ',' :=
    List.forall_mem_cons.mpr ⟨by decide, ne_of_plainText h rfl⟩
  have parts : splitCommas (' ' :: (a ++ [',', ' '] ++ b)) = [' ' :: a, ' ' :: b] := by
    have atComma := splitCommas_part_comma (noComma ha) (' ' :: b)
    rw [splitCommas_part (noComma hb)] at atComma
    simpa using atComma
  have read : commandText? m ((splitCommas (' ' :: (a ++ [',', ' '] ++ b))).map trimBlanks) = some i := by
    rw [parts, List.map_cons, List.map_singleton, trimBlanks_blank_plain ha, trimBlanks_blank_plain hb, hi]
  have noComment : ∀ c ∈ a ++ [',', ' '], c ≠ ';' := by
    rw [List.forall_mem_append]
    exact ⟨ne_of_plainText ha rfl, by simp⟩
  simpa using assembleLine_command hm hb noComment read

end

theorem plainText_mnemonics : plainText dec2iqText ∧ plainText iq2decText ∧ plainText armText ∧ plainText tickText := by
  simp [plainText, isPlain, isBlank, dec2iqText, iq2decText, armText, tickText]

/-- Settles O9: the four printed lines read back operand by operand. -/
theorem assembleDisassembleAgree : Obligations.AssembleDisassembleAgree := by
  unfold Obligations.AssembleDisassembleAgree
  intro i hi
  obtain ⟨plainDec2iq, plainIq2dec, plainArm, plainTick⟩ := plainText_mnemonics
  have number (k n : Nat) := plainText_of_digitText (digitText_decimalText k n)
  rw [disassemble, decodeEncodeAgree i]
  cases i with
  | dec2iq rsv d v =>
    obtain rfl : rsv = 0 := by simpa [Instr.wellFormed] using hi
    exact assembleLine_two plainDec2iq (plainText_valueText v) (number 2 _)
      (by simp [commandText?, valueText?_valueText, decimalsText?_decimalText])
  | iq2dec rsv d v =>
    obtain rfl : rsv = 0 := by simpa [Instr.wellFormed] using hi
    exact assembleLine_two plainIq2dec (plainText_valueText v) (number 2 _)
      (by simp [commandText?, valueText?_valueText, decimalsText?_decimalText, iq2decText, dec2iqText])
  | arm rsv dec now =>
    obtain ⟨rfl, rfl⟩ : rsv = 0 ∧ dec = 0 := by simpa [Instr.wellFormed] using hi
    exact assembleLine_one plainArm (number 4 _) (by simp [commandText?, nowText?_decimalText])
  | tick rsv dec now =>
    obtain ⟨rfl, rfl⟩ : rsv = 0 ∧ dec = 0 := by simpa [Instr.wellFormed] using hi
    exact assembleLine_one plainTick (number 4 _) (by simp [commandText?, nowText?_decimalText, armText, tickText])
  | _ => simp [Instr.wellFormed] at hi

/-- Settles O8: two operands are for two mnemonics, one operand for the other two, and there is no other number of operands. -/
theorem assemblerRefusesOtherMnemonics : Obligations.AssemblerRefusesOtherMnemonics := by
  unfold Obligations.AssemblerRefusesOtherMnemonics
  intro m operands hdec2iq hiq2dec harm htick
  unfold commandText?
  split
  · rw [dec2iqText, iq2decText, if_neg hdec2iq, if_neg hiq2dec]
  · rw [armText, tickText, if_neg harm, if_neg htick]
  · rfl

end Sys2Proof.Machine
end
